-- ==== Sys2Proof/Word.lean ====
section
/-! DEFINITION. Word.lean: the byte, the 64-bit signed count, and the two-armed result every codec and operation answers with. -/

namespace Sys2Proof

/-- The spec's `Byte`: an unsigned 8-bit value (00_scope.md R9). -/
abbrev Byte := BitVec 8

/-- `SignedCount`: the 64-bit two's complement pattern of a signed count; its value is `BitVec.toInt`
(10_state.md R24; the pattern is log entry 12). -/
abbrev SignedCount := BitVec 64

/-- The two forms of a result, `Ok(v)` and `Err(e)` (00_scope.md R9). -/
inductive Result (ε α : Type) where
  | ok (value : α)
  | err (error : ε)
deriving DecidableEq, Repr

/-- The spec's `v <- f(...)?`: an `Err` ends the computation at once, unchanged (00_scope.md R9). -/
def Result.bind {ε α β : Type} (r : Result ε α) (f : α → Result ε β) : Result ε β :=
  match r with
  | .ok a => f a
  | .err e => .err e

@[simp] theorem Result.bind_ok {ε α β : Type} (a : α) (f : α → Result ε β) :
    (Result.ok (ε := ε) a).bind f = f a := rfl

@[simp] theorem Result.bind_err {ε α β : Type} (e : ε) (f : α → Result ε β) :
    (Result.err (α := α) e).bind f = .err e := rfl

end Sys2Proof
end

