-- ==== Sys2Proof/Config.lean ====
section
/-! DEFINITION. Config.lean: the constants the spec fixes (R7), the transport's error type, and the free value that answers
every transport invocation (R8, R53). -/

namespace Sys2Proof

/-- The transport's own error, carried unchanged and never inspected by the block (R8, R25, decision D14).
The token tells one error from another and has no other meaning (log entry 2). -/
structure TransportError where
  token : Nat
deriving DecidableEq, Repr, Inhabited

/-- The 5 bytes captured by a 5-byte transfer, in the order they were clocked in (R39): `echo` is `resp[0]`, the
echo/don't-care slot, `d1` to `d4` are `resp[1]` to `resp[4]`, most significant first (R41, R43). That a transfer captures
exactly as many bytes as it sends is the transport's contract, held by the type (decision D18, log entry 15). -/
structure ReadResponse where
  echo : Byte
  d1 : Byte
  d2 : Byte
  d3 : Byte
  d4 : Byte
deriving DecidableEq, Repr, Inhabited

/-- What the environment does with one transport invocation (R53, R197): it succeeds, with the bytes clocked in meanwhile
(a write ignores them, R38); it fails with the transport's own error; or it never returns. -/
inductive Answer where
  | success (resp : ReadResponse)
  | failure (e : TransportError)
  | hang
deriving DecidableEq, Repr, Inhabited

/-- The transport's answer to the n-th invocation of a run: a free value under no law (R53, decision D19, log entry 1). -/
opaque Config.transportAnswer : Nat → Answer

/-- R7: the constants the source fixes. -/
def Config.headerLen : Nat := 1
def Config.maxPayload : Nat := 4
def Config.readFrameLen : Nat := 5
def Config.readDataLen : Nat := 4
def Config.cfgRegLen : Nat := 1
def Config.countWidth : Nat := 64
def Config.nTargetCodes : Nat := 8
def Config.nActionCodes : Nat := 4

end Sys2Proof
end

