-- ==== Sys2Proof/Syntax.lean ====
section
/-! DEFINITION. Syntax.lean: the value types on the block's ports (10_state.md R18 to R25), the wire instructions (one
constructor per row of spec/opcode_table.json), the six host operations and the calls of the pure codec functions. -/

namespace Sys2Proof

/-- R18: the closed set of targets. `none` names no register. -/
inductive RegisterTarget where
  | none | mdr0 | mdr1 | dtr | cntr | otr | str
deriving DecidableEq, Repr

/-- R19: the closed set of actions. -/
inductive RegisterAction where
  | clear | read | write | load
deriving DecidableEq, Repr

/-- R20: the pair (target, action); every one of the 28 pairs is a legal value. -/
structure InstructionHeader where
  target : RegisterTarget
  action : RegisterAction
deriving DecidableEq, Repr

/-- R21, R64. The modes have no meaning inside the block (91_not_in_source.md N10). -/
inductive QuadMode where
  | nonQuad | quad1x | quad2x | quad4x
deriving DecidableEq, Repr

/-- R21, R65. -/
inductive CycleMode where
  | freeRunning | singleCycle | rangeLimit | moduloN
deriving DecidableEq, Repr

/-- R21, R66. -/
inductive IndexMode where
  | disableIndex | loadCntr | clearCntr | loadOtr
deriving DecidableEq, Repr

/-- R21, R68. -/
inductive FilterClock where
  | one | two
deriving DecidableEq, Repr

/-- R22, R70. -/
inductive CounterMode where
  | byte4 | byte3 | byte2 | byte1
deriving DecidableEq, Repr

/-- R23, R73. -/
inductive Sign where
  | positive | negative
deriving DecidableEq, Repr

/-- R23, R73. -/
inductive Direction where
  | down | up
deriving DecidableEq, Repr

/-- R21: the primary configuration, 256 values, all valid. -/
structure Mdr0Config where
  quadMode : QuadMode
  cycleMode : CycleMode
  indexMode : IndexMode
  indexInverted : Bool
  filterClock : FilterClock
deriving DecidableEq, Repr

/-- R22: the secondary configuration, 128 values, all valid. -/
structure Mdr1Config where
  counterMode : CounterMode
  countingDisabled : Bool
  flagOnIndex : Bool
  flagOnCompare : Bool
  flagOnBorrow : Bool
  flagOnCarry : Bool
deriving DecidableEq, Repr

/-- R23: the decoded status register; equality is structural across all eight fields. -/
structure StatusSnapshot where
  sign : Sign
  countDirection : Direction
  powerLoss : Bool
  countingEnabled : Bool
  index : Bool
  compare : Bool
  borrow : Bool
  carry : Bool
deriving DecidableEq, Repr

/-- R25: the failure value of a codec's decode; it carries nothing (decision D15) and no byte produces it (R81). -/
inductive DecodeFailure where
  | outOfRange
deriving DecidableEq, Repr

/-- R25, R167: exactly three errors. -/
inductive DriverError where
  /-- R168: the payload exceeds the action's size contract; found before any bus activity. -/
  | payloadTooBig
  /-- R169: a transport invocation failed; the transport's own error, unchanged. -/
  | transport (e : TransportError)
  /-- R170: a register codec could not interpret a raw byte; kept in the type, never produced. -/
  | decode (f : DecodeFailure)
deriving DecidableEq, Repr

/-- The wire instructions, one constructor per row of spec/opcode_table.json: the 28 (action, target) pairs and the four
rows of target code 111. A Write carries its payload, in the order sent (R136 to R142); no other form has an operand. -/
inductive Instr where
  /-- `Clear None`, R122. -/
  | clearNone
  /-- `Clear Mdr0`, R123. -/
  | clearMdr0
  /-- `Clear Mdr1`, R124. -/
  | clearMdr1
  /-- `Clear Dtr`, R125. -/
  | clearDtr
  /-- `Clear Cntr`, R126. -/
  | clearCntr
  /-- `Clear Otr`, R127. -/
  | clearOtr
  /-- `Clear Str`, R128. -/
  | clearStr
  /-- `Clear None` written with target code 111: decode only (R150, R122). -/
  | clearNoneAlias
  /-- `Read None`, R129. -/
  | readNone
  /-- `Read Mdr0`, R130. -/
  | readMdr0
  /-- `Read Mdr1`, R131. -/
  | readMdr1
  /-- `Read Dtr`, R132. -/
  | readDtr
  /-- `Read Cntr`, R133. -/
  | readCntr
  /-- `Read Otr`, R134. -/
  | readOtr
  /-- `Read Str`, R135. -/
  | readStr
  /-- `Read None` written with target code 111: decode only (R150, R129). -/
  | readNoneAlias
  /-- `Write None`, R136. -/
  | writeNone (data : List Byte)
  /-- `Write Mdr0`, R137. -/
  | writeMdr0 (data : List Byte)
  /-- `Write Mdr1`, R138. -/
  | writeMdr1 (data : List Byte)
  /-- `Write Dtr`, R139. -/
  | writeDtr (data : List Byte)
  /-- `Write Cntr`, R140. -/
  | writeCntr (data : List Byte)
  /-- `Write Otr`, R141. -/
  | writeOtr (data : List Byte)
  /-- `Write Str`, R142. -/
  | writeStr (data : List Byte)
  /-- `Write None` written with target code 111: decode only (R150, R136). -/
  | writeNoneAlias (data : List Byte)
  /-- `Load None`, R143. -/
  | loadNone
  /-- `Load Mdr0`, R144. -/
  | loadMdr0
  /-- `Load Mdr1`, R145. -/
  | loadMdr1
  /-- `Load Dtr`, R146. -/
  | loadDtr
  /-- `Load Cntr`, R147. -/
  | loadCntr
  /-- `Load Otr`, R148. -/
  | loadOtr
  /-- `Load Str`, R149. -/
  | loadStr
  /-- `Load None` written with target code 111: decode only (R150, R143). -/
  | loadNoneAlias
deriving DecidableEq, Repr

/-- The six operations of the orchestrator (46_driver_operations.md R153 to R161). -/
inductive Operation where
  /-- R153 -/
  | writeRegister (target : RegisterTarget) (data : List Byte)
  /-- R154 -/
  | readRegister (target : RegisterTarget)
  /-- R155, R156, R157 -/
  | act (header : InstructionHeader) (data : List Byte)
  /-- R159 -/
  | getStatus
  /-- R160 -/
  | getCount
  /-- R161 -/
  | initializeDefaults
deriving DecidableEq, Repr

/-- What the host presents: an operation, or one wire instruction given as its bytes, header first. The second form is
the model's bit-level host port: it means `act` with the header the first byte decodes to (decision D13, log entry 5). -/
inductive Request where
  | operation (o : Operation)
  | encoded (bytes : List Byte)
deriving DecidableEq, Repr

/-- The success values of the operations (R166). -/
inductive Value where
  | unit
  | bytes (data : List Byte)
  | status (s : StatusSnapshot)
  | count (c : SignedCount)
deriving DecidableEq, Repr

/-- The response to a request: `Ok(value)` or `Err(error)` (R6). -/
abbrev Response := Result DriverError Value

/-- A call of one of the block's pure codec functions (R6, R79 to R119). -/
inductive CodecCall where
  | targetEncode (t : RegisterTarget)
  | targetDecode (c : BitVec 3)
  | actionEncode (a : RegisterAction)
  | actionDecode (c : BitVec 2)
  | quadModeEncode (m : QuadMode)
  | quadModeDecode (c : BitVec 2)
  | cycleModeEncode (m : CycleMode)
  | cycleModeDecode (c : BitVec 2)
  | indexModeEncode (m : IndexMode)
  | indexModeDecode (c : BitVec 2)
  | filterClockEncode (m : FilterClock)
  | filterClockDecode (c : BitVec 1)
  | counterModeEncode (m : CounterMode)
  | counterModeDecode (c : BitVec 2)
  | boolEncode (b : Bool)
  | boolDecode (c : BitVec 1)
  | signDecode (c : BitVec 1)
  | directionDecode (c : BitVec 1)
  | headerEncode (h : InstructionHeader)
  | headerDecode (b : Byte)
  | mdr0Encode (c : Mdr0Config)
  | mdr0Decode (b : Byte)
  | mdr1Encode (c : Mdr1Config)
  | mdr1Decode (b : Byte)
  | strDecode (b : Byte)
  | bytesToUnsigned (s : List Byte)
  | reconstruct (s : List Byte) (sign : Sign)
deriving DecidableEq, Repr

/-- What a codec function answers: a code or byte from an encode, `Ok` or `Err(DecodeFailure)` from a decode, an
unsigned magnitude, or a signed count. -/
inductive CodecValue where
  | code1 (c : BitVec 1)
  | code2 (c : BitVec 2)
  | code3 (c : BitVec 3)
  | byte (b : Byte)
  | target (r : Result DecodeFailure RegisterTarget)
  | action (r : Result DecodeFailure RegisterAction)
  | quadMode (r : Result DecodeFailure QuadMode)
  | cycleMode (r : Result DecodeFailure CycleMode)
  | indexMode (r : Result DecodeFailure IndexMode)
  | filterClock (r : Result DecodeFailure FilterClock)
  | counterMode (r : Result DecodeFailure CounterMode)
  | bool (r : Result DecodeFailure Bool)
  | sign (r : Result DecodeFailure Sign)
  | direction (r : Result DecodeFailure Direction)
  | header (r : Result DecodeFailure InstructionHeader)
  | mdr0 (r : Result DecodeFailure Mdr0Config)
  | mdr1 (r : Result DecodeFailure Mdr1Config)
  | status (r : Result DecodeFailure StatusSnapshot)
  | unsigned (n : Nat)
  | count (c : SignedCount)
deriving DecidableEq, Repr

end Sys2Proof
end

