-- ==== Sys2Proof/WellFormed.lean ====
section
/-! DEFINITION. WellFormed.lean: the one check a wire instruction has, on the payload length of a Write. -/

namespace Sys2Proof

/-- R46, R153: a Write carries 0 to 4 payload bytes; Clear, Load and Read have no operand to check. The length is not
compared with the target's width (R45). -/
def Instr.wf : Instr → Bool
  | .clearNone | .clearMdr0 | .clearMdr1 | .clearDtr | .clearCntr | .clearOtr | .clearStr | .clearNoneAlias => true
  | .readNone | .readMdr0 | .readMdr1 | .readDtr | .readCntr | .readOtr | .readStr | .readNoneAlias => true
  | .writeNone data | .writeMdr0 data | .writeMdr1 data | .writeDtr data | .writeCntr data | .writeOtr data
  | .writeStr data | .writeNoneAlias data => decide (data.length ≤ Config.maxPayload)
  | .loadNone | .loadMdr0 | .loadMdr1 | .loadDtr | .loadCntr | .loadOtr | .loadStr | .loadNoneAlias => true

end Sys2Proof
end

