-- ==== Sys2Proof/Decode.lean ====
section
/-! DEFINITION. Decode.lean: the field primitives (R82), the target, action and header codecs (R83 to R86, R95, R96), the
decoder of a wire instruction's bytes (total, rejecting by name) and, after it, the encoder. -/

namespace Sys2Proof

/-- R82: `extract(b, hi, lo) = (b >> lo) & ((1 << (hi - lo + 1)) - 1)`, the field `b[hi:lo]`. -/
def extract (b : Byte) (hi lo : Nat) : BitVec (hi - lo + 1) :=
  ((b >>> lo) &&& ((1#8 <<< (hi - lo + 1)) - 1#8)).setWidth (hi - lo + 1)

/-- R82: `insert(code, hi, lo) = code << lo`; the code's width is its type's, so the `requires` clause holds. -/
def place {n : Nat} (code : BitVec n) (lo : Nat) : Byte :=
  code.setWidth 8 <<< lo

/-- R83; the code of `None` is decision D5. -/
def Target.encode : RegisterTarget → BitVec 3
  | .none => 0b000#3
  | .mdr0 => 0b001#3
  | .mdr1 => 0b010#3
  | .dtr => 0b011#3
  | .cntr => 0b100#3
  | .otr => 0b101#3
  | .str => 0b110#3

/-- R84. The last arm is the out-of-range code, which no 3-bit code is (R81). -/
def Target.decode (c : BitVec 3) : Result DecodeFailure RegisterTarget :=
  match c.toNat with
  | 0b000 => .ok .none
  | 0b001 => .ok .mdr0
  | 0b010 => .ok .mdr1
  | 0b011 => .ok .dtr
  | 0b100 => .ok .cntr
  | 0b101 => .ok .otr
  | 0b110 => .ok .str
  | 0b111 => .ok .none
  | _ => .err .outOfRange

/-- R85. -/
def Action.encode : RegisterAction → BitVec 2
  | .clear => 0b00#2
  | .read => 0b01#2
  | .write => 0b10#2
  | .load => 0b11#2

/-- R86. -/
def Action.decode (c : BitVec 2) : Result DecodeFailure RegisterAction :=
  match c.toNat with
  | 0b00 => .ok .clear
  | 0b01 => .ok .read
  | 0b10 => .ok .write
  | 0b11 => .ok .load
  | _ => .err .outOfRange

/-- R95: action in bits 7 to 6, target in bits 5 to 3, bits 2 to 0 zero. -/
def Header.encode (h : InstructionHeader) : Byte :=
  place (Action.encode h.action) 6 ||| place (Target.encode h.target) 3

/-- R96: target then action (decision D26), bits 2 to 0 not read (decision D6). -/
def Header.decode (b : Byte) : Result DecodeFailure InstructionHeader :=
  (Target.decode (extract b 5 3)).bind fun t =>
    (Action.decode (extract b 7 6)).bind fun a => .ok { target := t, action := a }

/-- The instruction's action (opcode table; R122 to R150). -/
def Instr.action : Instr → RegisterAction
  | .clearNone | .clearMdr0 | .clearMdr1 | .clearDtr | .clearCntr | .clearOtr | .clearStr | .clearNoneAlias => .clear
  | .readNone | .readMdr0 | .readMdr1 | .readDtr | .readCntr | .readOtr | .readStr | .readNoneAlias => .read
  | .writeNone _ | .writeMdr0 _ | .writeMdr1 _ | .writeDtr _ | .writeCntr _ | .writeOtr _ | .writeStr _
  | .writeNoneAlias _ => .write
  | .loadNone | .loadMdr0 | .loadMdr1 | .loadDtr | .loadCntr | .loadOtr | .loadStr | .loadNoneAlias => .load

/-- The instruction's target; the rows of target code 111 have target `None` (R150). -/
def Instr.target : Instr → RegisterTarget
  | .clearNone | .readNone | .writeNone _ | .loadNone | .clearNoneAlias | .readNoneAlias | .writeNoneAlias _
  | .loadNoneAlias => .none
  | .clearMdr0 | .readMdr0 | .writeMdr0 _ | .loadMdr0 => .mdr0
  | .clearMdr1 | .readMdr1 | .writeMdr1 _ | .loadMdr1 => .mdr1
  | .clearDtr | .readDtr | .writeDtr _ | .loadDtr => .dtr
  | .clearCntr | .readCntr | .writeCntr _ | .loadCntr => .cntr
  | .clearOtr | .readOtr | .writeOtr _ | .loadOtr => .otr
  | .clearStr | .readStr | .writeStr _ | .loadStr => .str

/-- The payload: a Write's bytes, nothing for the others (R57). -/
def Instr.payload : Instr → List Byte
  | .clearNone | .clearMdr0 | .clearMdr1 | .clearDtr | .clearCntr | .clearOtr | .clearStr | .clearNoneAlias => []
  | .readNone | .readMdr0 | .readMdr1 | .readDtr | .readCntr | .readOtr | .readStr | .readNoneAlias => []
  | .writeNone data | .writeMdr0 data | .writeMdr1 data | .writeDtr data | .writeCntr data | .writeOtr data
  | .writeStr data | .writeNoneAlias data => data
  | .loadNone | .loadMdr0 | .loadMdr1 | .loadDtr | .loadCntr | .loadOtr | .loadStr | .loadNoneAlias => []

/-- Whether the row is one of the four of target code 111 (R150). -/
def Instr.codedAsAlias : Instr → Bool
  | .clearNone | .clearMdr0 | .clearMdr1 | .clearDtr | .clearCntr | .clearOtr | .clearStr => false
  | .readNone | .readMdr0 | .readMdr1 | .readDtr | .readCntr | .readOtr | .readStr => false
  | .writeNone _ | .writeMdr0 _ | .writeMdr1 _ | .writeDtr _ | .writeCntr _ | .writeOtr _ | .writeStr _ => false
  | .loadNone | .loadMdr0 | .loadMdr1 | .loadDtr | .loadCntr | .loadOtr | .loadStr => false
  | .clearNoneAlias | .readNoneAlias | .writeNoneAlias _ | .loadNoneAlias => true

/-- The (target, action) pair of an instruction (R20). -/
def Instr.header (i : Instr) : InstructionHeader := { target := i.target, action := i.action }

/-- The instruction of a header value and a payload (R120); only a Write keeps the payload. -/
def Instr.ofHeader (h : InstructionHeader) (data : List Byte) : Instr :=
  match h.action, h.target with
  | .clear, .none => .clearNone
  | .clear, .mdr0 => .clearMdr0
  | .clear, .mdr1 => .clearMdr1
  | .clear, .dtr => .clearDtr
  | .clear, .cntr => .clearCntr
  | .clear, .otr => .clearOtr
  | .clear, .str => .clearStr
  | .read, .none => .readNone
  | .read, .mdr0 => .readMdr0
  | .read, .mdr1 => .readMdr1
  | .read, .dtr => .readDtr
  | .read, .cntr => .readCntr
  | .read, .otr => .readOtr
  | .read, .str => .readStr
  | .write, .none => .writeNone data
  | .write, .mdr0 => .writeMdr0 data
  | .write, .mdr1 => .writeMdr1 data
  | .write, .dtr => .writeDtr data
  | .write, .cntr => .writeCntr data
  | .write, .otr => .writeOtr data
  | .write, .str => .writeStr data
  | .load, .none => .loadNone
  | .load, .mdr0 => .loadMdr0
  | .load, .mdr1 => .loadMdr1
  | .load, .dtr => .loadDtr
  | .load, .cntr => .loadCntr
  | .load, .otr => .loadOtr
  | .load, .str => .loadStr

/-- The row of target code 111 with the given action (R150). -/
def Instr.ofAliasCode (a : RegisterAction) (data : List Byte) : Instr :=
  match a with
  | .clear => .clearNoneAlias
  | .read => .readNoneAlias
  | .write => .writeNoneAlias data
  | .load => .loadNoneAlias

/-- The size contract of an action (R168): at most 4 bytes for Write, none for Clear and Load, no requirement for Read
(R157, decision D23). -/
def payloadFits (a : RegisterAction) (data : List Byte) : Bool :=
  match a with
  | .clear | .load => data.isEmpty
  | .read => true
  | .write => decide (data.length ≤ Config.maxPayload)

/-- Why bytes are no wire instruction. -/
inductive DecodeError where
  /-- The sequence is empty: byte 0 of a frame is always the header (R57). -/
  | noHeader
  /-- The payload breaks the action's size contract (R155, R156). -/
  | payloadTooBig
  /-- A field code out of range: no byte gives it (R81). -/
  | field (f : DecodeFailure)
deriving DecidableEq, Repr

/-- The decoder: the bytes of one delimited frame (R42, R77), header first. Bytes after a Read's header are ignored (R157). -/
def decode : List Byte → Result DecodeError Instr
  | [] => .err .noHeader
  | b :: data =>
    match Header.decode b with
    | .err f => .err (.field f)
    | .ok h =>
      if payloadFits h.action data then
        if extract b 5 3 = 0b111#3 then .ok (Instr.ofAliasCode h.action data)
        else .ok (Instr.ofHeader h data)
      else .err .payloadTooBig

/-- The target code an instruction's row holds (R59, R62). -/
def Instr.targetCode (i : Instr) : BitVec 3 :=
  if i.codedAsAlias then 0b111#3 else Target.encode i.target

/-- The bytes after the header in an instruction's frame (R57): the payload of a Write, four zero bytes of a Read. -/
def Instr.operandBytes (i : Instr) : List Byte :=
  match i.action with
  | .clear | .load => []
  | .write => i.payload
  | .read => [0x00#8, 0x00#8, 0x00#8, 0x00#8]

/-- The encoder: the words of an instruction as its row of the opcode table has them (R58, R75). -/
def encode (i : Instr) : List Byte :=
  (place (Action.encode i.action) 6 ||| place i.targetCode 3) :: i.operandBytes

/-- The n lowest bytes of w, bits 7 to 0 first. -/
def wordBytes : Nat → Nat → List Byte
  | 0, _ => []
  | n + 1, w => BitVec.ofNat 8 w :: wordBytes n (w / 256)

/-- The bytes of a table word: one per 8 bits, the first byte in bits 7 to 0. A frame carries no length (R77), so a word of
8 bits is the header alone: an empty payload for a Write. -/
def tableWordBytes (nbits w : Nat) : List Byte := wordBytes ((nbits + 7) / 8) w

/-- The instruction the decoder reads from a word numbered as spec/opcode_table.json numbers it. -/
def decodeTableWord (nbits w : Nat) : Option Instr :=
  match decode (tableWordBytes nbits w) with
  | .ok i => some i
  | .err _ => none

end Sys2Proof
end

