-- ==== Sys2Proof/Machine/Codecs.lean ====
section
/-! DEFINITION. Machine/Codecs.lean: the enumeration codecs (R87 to R92) and the configuration register codecs (R100 to
R107). -/

namespace Sys2Proof

/-- R87. -/
def QuadMode.encode : QuadMode → BitVec 2
  | .nonQuad => 0b00#2
  | .quad1x => 0b01#2
  | .quad2x => 0b10#2
  | .quad4x => 0b11#2

/-- R87. -/
def QuadMode.decode (c : BitVec 2) : Result DecodeFailure QuadMode :=
  match c.toNat with
  | 0b00 => .ok .nonQuad
  | 0b01 => .ok .quad1x
  | 0b10 => .ok .quad2x
  | 0b11 => .ok .quad4x
  | _ => .err .outOfRange

/-- R88. -/
def CycleMode.encode : CycleMode → BitVec 2
  | .freeRunning => 0b00#2
  | .singleCycle => 0b01#2
  | .rangeLimit => 0b10#2
  | .moduloN => 0b11#2

/-- R88. -/
def CycleMode.decode (c : BitVec 2) : Result DecodeFailure CycleMode :=
  match c.toNat with
  | 0b00 => .ok .freeRunning
  | 0b01 => .ok .singleCycle
  | 0b10 => .ok .rangeLimit
  | 0b11 => .ok .moduloN
  | _ => .err .outOfRange

/-- R89. -/
def IndexMode.encode : IndexMode → BitVec 2
  | .disableIndex => 0b00#2
  | .loadCntr => 0b01#2
  | .clearCntr => 0b10#2
  | .loadOtr => 0b11#2

/-- R89. -/
def IndexMode.decode (c : BitVec 2) : Result DecodeFailure IndexMode :=
  match c.toNat with
  | 0b00 => .ok .disableIndex
  | 0b01 => .ok .loadCntr
  | 0b10 => .ok .clearCntr
  | 0b11 => .ok .loadOtr
  | _ => .err .outOfRange

/-- R90 (decision D3). -/
def FilterClock.encode : FilterClock → BitVec 1
  | .one => 0#1
  | .two => 1#1

/-- R90 (decision D3). -/
def FilterClock.decode (c : BitVec 1) : Result DecodeFailure FilterClock :=
  match c.toNat with
  | 0 => .ok .one
  | 1 => .ok .two
  | _ => .err .outOfRange

/-- R91. -/
def CounterMode.encode : CounterMode → BitVec 2
  | .byte4 => 0b00#2
  | .byte3 => 0b01#2
  | .byte2 => 0b10#2
  | .byte1 => 0b11#2

/-- R91. -/
def CounterMode.decode (c : BitVec 2) : Result DecodeFailure CounterMode :=
  match c.toNat with
  | 0b00 => .ok .byte4
  | 0b01 => .ok .byte3
  | 0b10 => .ok .byte2
  | 0b11 => .ok .byte1
  | _ => .err .outOfRange

/-- R70: the number of significant bytes is 4 minus the code. No rule of the block reads it (R189). -/
def CounterMode.significantBytes (m : CounterMode) : Nat := 4 - (CounterMode.encode m).toNat

/-- R92 (decision D4). -/
def BoolCode.encode : Bool → BitVec 1
  | false => 0#1
  | true => 1#1

/-- R92 (decision D4). -/
def BoolCode.decode (c : BitVec 1) : Result DecodeFailure Bool :=
  match c.toNat with
  | 0 => .ok false
  | 1 => .ok true
  | _ => .err .outOfRange

/-- R100 (R63). -/
def Mdr0.encode (c : Mdr0Config) : Byte :=
  place (FilterClock.encode c.filterClock) 7
    ||| place (BoolCode.encode c.indexInverted) 6
    ||| place (IndexMode.encode c.indexMode) 4
    ||| place (CycleMode.encode c.cycleMode) 2
    ||| place (QuadMode.encode c.quadMode) 0

/-- R101, in ascending bit order (decision D26). -/
def Mdr0.decode (b : Byte) : Result DecodeFailure Mdr0Config :=
  (QuadMode.decode (extract b 1 0)).bind fun quadMode =>
  (CycleMode.decode (extract b 3 2)).bind fun cycleMode =>
  (IndexMode.decode (extract b 5 4)).bind fun indexMode =>
  (BoolCode.decode (extract b 6 6)).bind fun indexInverted =>
  (FilterClock.decode (extract b 7 7)).bind fun filterClock =>
    .ok { quadMode, cycleMode, indexMode, indexInverted, filterClock }

/-- R103 (R69); the flag places are decision D2, bit 3 is written 0 (decision D7). -/
def Mdr1.encode (c : Mdr1Config) : Byte :=
  place (BoolCode.encode c.flagOnCarry) 7
    ||| place (BoolCode.encode c.flagOnBorrow) 6
    ||| place (BoolCode.encode c.flagOnCompare) 5
    ||| place (BoolCode.encode c.flagOnIndex) 4
    ||| place (BoolCode.encode c.countingDisabled) 2
    ||| place (CounterMode.encode c.counterMode) 0

/-- R104, in ascending bit order; bit 3 is not read (decisions D2, D7, D26). -/
def Mdr1.decode (b : Byte) : Result DecodeFailure Mdr1Config :=
  (CounterMode.decode (extract b 1 0)).bind fun counterMode =>
  (BoolCode.decode (extract b 2 2)).bind fun countingDisabled =>
  (BoolCode.decode (extract b 4 4)).bind fun flagOnIndex =>
  (BoolCode.decode (extract b 5 5)).bind fun flagOnCompare =>
  (BoolCode.decode (extract b 6 6)).bind fun flagOnBorrow =>
  (BoolCode.decode (extract b 7 7)).bind fun flagOnCarry =>
    .ok { counterMode, countingDisabled, flagOnIndex, flagOnCompare, flagOnBorrow, flagOnCarry }

/-- R106: the default primary configuration; `indexInverted` is decision D8. -/
def defaultMdr0 : Mdr0Config where
  quadMode := .quad4x
  cycleMode := .freeRunning
  indexMode := .disableIndex
  indexInverted := false
  filterClock := .one

/-- R107: the default secondary configuration. -/
def defaultMdr1 : Mdr1Config where
  counterMode := .byte4
  countingDisabled := false
  flagOnIndex := false
  flagOnCompare := false
  flagOnBorrow := false
  flagOnCarry := false

end Sys2Proof
end

