-- ==== Sys2Proof/Machine/Flags.lean ====
section
/-! DEFINITION. Machine/Flags.lean: the block has no flags of its own (R17); the only flags it knows are the chip's, and this is
their decoder: the status register (R93, R94, R109). -/

namespace Sys2Proof

/-- R93. -/
def SignCode.decode (c : BitVec 1) : Result DecodeFailure Sign :=
  match c.toNat with
  | 0 => .ok .positive
  | 1 => .ok .negative
  | _ => .err .outOfRange

/-- R94. -/
def DirectionCode.decode (c : BitVec 1) : Result DecodeFailure Direction :=
  match c.toNat with
  | 0 => .ok .down
  | 1 => .ok .up
  | _ => .err .outOfRange

/-- R109: the bit places are decision D1, the order of the fields decision D26. -/
def Str.decode (b : Byte) : Result DecodeFailure StatusSnapshot :=
  (SignCode.decode (extract b 0 0)).bind fun sign =>
  (DirectionCode.decode (extract b 1 1)).bind fun countDirection =>
  (BoolCode.decode (extract b 2 2)).bind fun powerLoss =>
  (BoolCode.decode (extract b 3 3)).bind fun countingEnabled =>
  (BoolCode.decode (extract b 4 4)).bind fun index =>
  (BoolCode.decode (extract b 5 5)).bind fun compare =>
  (BoolCode.decode (extract b 6 6)).bind fun borrow =>
  (BoolCode.decode (extract b 7 7)).bind fun carry =>
    .ok { sign, countDirection, powerLoss, countingEnabled, index, compare, borrow, carry }

end Sys2Proof
end

