-- ==== Sys2Proof/Machine/Integers.lean ====
section
/-! DEFINITION. Machine/Integers.lean: integer reconstruction from bytes (R114 to R119), the only arithmetic of the block. -/

namespace Sys2Proof

/-- R114, folding from the left: `acc <- (acc << 8) | s[i]`, on exact naturals. -/
def foldBigEndian (acc : Nat) : List Byte → Nat
  | [] => acc
  | b :: rest => foldBigEndian ((acc <<< 8) ||| b.toNat) rest

/-- R114, R115: the unsigned big-endian value of at most 4 bytes; none outside the domain (decision D10). -/
def bytesToUnsigned (s : List Byte) : Option Nat :=
  if s.length ≤ 4 then some (foldBigEndian 0 s) else none

/-- R116: `-magnitude` when the sign is Negative, else `magnitude`, as a 64-bit signed integer; none outside the domain. -/
def reconstruct (s : List Byte) (sign : Sign) : Option SignedCount :=
  match bytesToUnsigned s with
  | none => none
  | some magnitude =>
    match sign with
    | .negative => some (BitVec.ofInt 64 (-(magnitude : Int)))
    | .positive => some (BitVec.ofInt 64 (magnitude : Int))

end Sys2Proof
end

