-- ==== Sys2Proof/Machine/State.lean ====
section
/-! DEFINITION. Machine/State.lean: everything the spec gives the block (the in-flight context, the transport interface), the
two host ports, the environment's answers, and what a run is observed as (R11). No register, memory, flag or program counter:
the block has none (R13, R15, R16, R17, R37). -/

namespace Sys2Proof.Machine

open Sys2Proof

/-- R38, R39: the two primitives of the transport. -/
inductive Primitive where
  | writeBytes
  | transferBytes
deriving DecidableEq, Repr

/-- R11: one transport invocation: the primitive and the bytes of its frame, in the order sent. -/
structure Invocation where
  primitive : Primitive
  frame : List Byte
deriving DecidableEq, Repr

/-- How an invocation was answered, as the block sees it: a write returned; a transfer returned with its captured bytes; the
transport failed; or it has not returned (R38, R39, R197). -/
inductive BusResult where
  | done
  | captured (resp : ReadResponse)
  | failed (e : TransportError)
  | notReturned
deriving DecidableEq, Repr

/-- R11: an entry of the observed trace. -/
structure Event where
  invocation : Invocation
  result : BusResult
deriving DecidableEq, Repr

/-- What the engine is executing: one of the six operations, or a wire instruction the host gave as bytes. -/
inductive Job where
  | operation (o : Operation)
  | wire (i : Instr)
deriving DecidableEq, Repr

/-- R33: the in-flight context: the operation and its arguments, the index of the current step (R16), and the data bytes
captured by the steps before it. -/
structure Context where
  job : Job
  index : Nat
  captured : List Byte
deriving DecidableEq, Repr

/-- The transport interface: quiet (R35); an invocation made and not returned (R197); or, inside a step only, the result the
wire instruction hands to the operation that issued it (R120, R121). -/
inductive Link where
  | quiet
  | waiting (inv : Invocation)
  | replied (r : Result DriverError (List Byte))
deriving DecidableEq, Repr

/-- Why the machine stops with a fault. -/
inductive Fault where
  /-- Raised by a step whose in-flight context fits no step of its operation. No run reaches such a state (Safety.lean's
  invariant rules it out), and the spec gives it no meaning. Safe: the machine stops. -/
  | contextOutOfRange
deriving DecidableEq, Repr

/-- Why a step has no meaning to give. -/
inductive Refusal where
  /-- An instruction the model gives no meaning yet; raised by exec's arm, by name. Safe. -/
  | notModelled (mnemonic : String)
  /-- Raised by a step that takes an empty byte sequence as an encoded request: byte 0 of a frame is always the header
  (R57), so there is no instruction. Safe. -/
  | emptyFrame
  /-- Raised by the codec port on a sequence of more than 4 bytes: outside the domain of BytesToUnsigned, to be refused
  (R115). Safe. -/
  | sequenceTooLong
deriving DecidableEq, Repr

/-- The state. Every field is plain data. -/
structure State where
  /-- Host interface: requests presented and not yet accepted, oldest first (R6, R165). -/
  requests : List Request
  /-- Host interface: calls of the pure codec functions not yet evaluated, oldest first (R6, R165). -/
  codecCalls : List CodecCall
  /-- R33: the in-flight context; none when idle. -/
  inFlight : Option Context
  /-- The transport interface (R6, R35). -/
  link : Link
  /-- Environment: the answers the transport has lined up, next first (a mock, R53); beyond them the answer is free. -/
  answers : List Answer
  /-- The model's own counter: how many invocations have been made; it indexes the free answers. -/
  draws : Nat
  /-- R11: every transport invocation made, in order, with its answer. -/
  trace : List Event
  /-- R11: every response given to the host, in order. -/
  responses : List Response
  /-- Every value the codec functions gave the host, in order. -/
  codecResults : List CodecValue
deriving DecidableEq, Repr

/-- R35, R183 (decision D16): idle, nothing in flight, transport interface quiet. No request has been presented, nothing has
been observed; no answer is lined up, so every answer is free. -/
def State.reset : State where
  requests := []
  codecCalls := []
  inFlight := none
  link := .quiet
  answers := []
  draws := 0
  trace := []
  responses := []
  codecResults := []

end Sys2Proof.Machine
end

