-- ==== Sys2Proof/Machine/Operands.lean ====
section
/-! DEFINITION. Machine/Operands.lean: how a wire instruction's operands become a frame (R40, R41, R57, R74), and the address
map's register widths (R55). -/

namespace Sys2Proof.Machine

open Sys2Proof

/-- R40: Clear, Load and Write go through `writeBytes`, Read through `transferBytes`. -/
def primitiveOf : RegisterAction → Primitive
  | .clear => .writeBytes
  | .read => .transferBytes
  | .write => .writeBytes
  | .load => .writeBytes

/-- R57, R74: the bytes after the header: nothing (format C), the host's data unchanged (format W), four zero bytes
(format R). -/
def frameTail (a : RegisterAction) (data : List Byte) : List Byte :=
  match a with
  | .clear => []
  | .read => [0x00#8, 0x00#8, 0x00#8, 0x00#8]
  | .write => data
  | .load => []

/-- R41: the frame the block sends: the emitted header byte, then the format's tail. -/
def frameOf (h : InstructionHeader) (data : List Byte) : List Byte :=
  Header.encode h :: frameTail h.action data

/-- R120: the one invocation of a wire instruction. -/
def invocationOf (h : InstructionHeader) (data : List Byte) : Invocation :=
  { primitive := primitiveOf h.action, frame := frameOf h data }

/-- R41, R154: the 4 data bytes of a read response, `resp[1..4]`; `resp[0]` is discarded. -/
def responseData (r : ReadResponse) : List Byte := [r.d1, r.d2, r.d3, r.d4]

/-- R55: the widest value of the target's register, in bytes; `None` names no register. No rule of the block reads it (R45). -/
def registerBytes : RegisterTarget → Option Nat
  | .none => none
  | .mdr0 => some Config.cfgRegLen
  | .mdr1 => some Config.cfgRegLen
  | .dtr => some Config.maxPayload
  | .cntr => some Config.maxPayload
  | .otr => some Config.maxPayload
  | .str => some Config.cfgRegLen

end Sys2Proof.Machine
end

