-- ==== Sys2Proof/Machine/Ops.lean ====
section
/-! DEFINITION. Machine/Ops.lean: the shared operations: the host's and the environment's inputs, one transport invocation,
issuing a wire instruction, and giving a response (which is also how an error ends an operation, R174). -/

namespace Sys2Proof.Machine

open Sys2Proof

/-- The host presents a request: it is held, in order, until accepted (R165). -/
def State.present (r : Request) (s : State) : State := { s with requests := s.requests ++ [r] }

/-- The host calls a codec function (R165). -/
def State.callCodec (c : CodecCall) (s : State) : State := { s with codecCalls := s.codecCalls ++ [c] }

/-- A simulator's transport lines up an answer (R53). -/
def State.supply (a : Answer) (s : State) : State := { s with answers := s.answers ++ [a] }

def State.setRequests (rs : List Request) (s : State) : State := { s with requests := rs }
def State.setContext (c : Option Context) (s : State) : State := { s with inFlight := c }
def State.setLink (l : Link) (s : State) : State := { s with link := l }

/-- The answer to the k-th invocation from now: the one lined up, or else a free value (R53, log entry 1). -/
def State.answerAt (k : Nat) (s : State) : Answer :=
  match s.answers[k]? with
  | some a => a
  | none => Config.transportAnswer (s.draws + k)

/-- What the trace shows of an answer: a write ignores the bytes clocked in (R38). -/
def busResult (p : Primitive) (a : Answer) : BusResult :=
  match a with
  | .success r =>
    match p with
    | .writeBytes => .done
    | .transferBytes => .captured r
  | .failure e => .failed e
  | .hang => .notReturned

/-- What the transport interface holds after an answer: the bytes the operation gets (nothing after a write, R120;
`resp[1..4]` after a transfer, R154), the transport's error unchanged (R54, R169), or an invocation that has not returned
(R197). -/
def linkAfter (inv : Invocation) (a : Answer) : Link :=
  match a with
  | .success r =>
    match inv.primitive with
    | .writeBytes => .replied (.ok [])
    | .transferBytes => .replied (.ok (responseData r))
  | .failure e => .replied (.err (.transport e))
  | .hang => .waiting inv

/-- One transport invocation (R38, R39, R47): the next answer is drawn, the invocation joins the trace. -/
def invoke (inv : Invocation) (s : State) : State :=
  { s with
    link := linkAfter inv (s.answerAt 0)
    answers := s.answers.tail
    draws := s.draws + 1
    trace := s.trace ++ [{ invocation := inv, result := busResult inv.primitive (s.answerAt 0) }] }

/-- Whether the interface is held by an invocation that has not returned: nothing else can be sent (R50, R197). -/
def Link.blocked : Link → Bool
  | .quiet => false
  | .waiting _ => true
  | .replied _ => false

/-- Issuing a wire instruction (R120): the payload check of its operation (R121, R156), then exactly one invocation. While an
earlier invocation has not returned, nothing happens. -/
def issue (h : InstructionHeader) (data : List Byte) (s : State) : Host.Outcome State Fault Refusal :=
  if s.link.blocked then .next s
  else if payloadFits h.action data then .next (invoke (invocationOf h data) s)
  else .next (s.setLink (.replied (.err .payloadTooBig)))

/-- Giving the response (R174, R176): it goes to the host, the in-flight context is gone, the interface is quiet. An error is
given the same way: nothing is saved, there is no handler, and the next request is taken as if nothing had happened. -/
def respond (r : Response) (s : State) : State :=
  { s with responses := s.responses ++ [r], inFlight := none, link := .quiet }

end Sys2Proof.Machine
end

