-- ==== Sys2Proof/Machine/CodecPort.lean ====
section
/-! DEFINITION. Machine/CodecPort.lean: the pure codec functions as the host calls them (R6, R165): one call is evaluated, nothing
else of the machine changes. -/

namespace Sys2Proof.Machine

open Sys2Proof

/-- The value of a codec call; none where the call is outside its function's domain (R115). -/
def evalCodec : CodecCall → Option CodecValue
  | .targetEncode t => some (.code3 (Target.encode t))
  | .targetDecode c => some (.target (Target.decode c))
  | .actionEncode a => some (.code2 (Action.encode a))
  | .actionDecode c => some (.action (Action.decode c))
  | .quadModeEncode m => some (.code2 (QuadMode.encode m))
  | .quadModeDecode c => some (.quadMode (QuadMode.decode c))
  | .cycleModeEncode m => some (.code2 (CycleMode.encode m))
  | .cycleModeDecode c => some (.cycleMode (CycleMode.decode c))
  | .indexModeEncode m => some (.code2 (IndexMode.encode m))
  | .indexModeDecode c => some (.indexMode (IndexMode.decode c))
  | .filterClockEncode m => some (.code1 (FilterClock.encode m))
  | .filterClockDecode c => some (.filterClock (FilterClock.decode c))
  | .counterModeEncode m => some (.code2 (CounterMode.encode m))
  | .counterModeDecode c => some (.counterMode (CounterMode.decode c))
  | .boolEncode b => some (.code1 (BoolCode.encode b))
  | .boolDecode c => some (.bool (BoolCode.decode c))
  | .signDecode c => some (.sign (SignCode.decode c))
  | .directionDecode c => some (.direction (DirectionCode.decode c))
  | .headerEncode h => some (.byte (Header.encode h))
  | .headerDecode b => some (.header (Header.decode b))
  | .mdr0Encode c => some (.byte (Mdr0.encode c))
  | .mdr0Decode b => some (.mdr0 (Mdr0.decode b))
  | .mdr1Encode c => some (.byte (Mdr1.encode c))
  | .mdr1Decode b => some (.mdr1 (Mdr1.decode b))
  | .strDecode b => some (.status (Str.decode b))
  | .bytesToUnsigned s => (bytesToUnsigned s).map .unsigned
  | .reconstruct s sign => (reconstruct s sign).map .count

/-- One codec call, evaluated at any time, an operation in flight or not (R165). -/
def serveCodec (c : CodecCall) (rest : List CodecCall) (s : State) : Host.Outcome State Fault Refusal :=
  match evalCodec c with
  | some v => .next { s with codecCalls := rest, codecResults := s.codecResults ++ [v] }
  | none => .refused .sequenceTooLong

end Sys2Proof.Machine
end

