-- ==== Sys2Proof/Machine/Clear.lean ====
section
/-! DEFINITION. Machine/Clear.lean: the meanings of the Clear instructions: one header byte through `writeBytes`, nothing captured. -/

namespace Sys2Proof.Machine

open Sys2Proof

/-- R122: `Clear None`. -/
def execClearNone (s : State) : Host.Outcome State Fault Refusal :=
  issue { target := .none, action := .clear } [] s

/-- R123: `Clear Mdr0`. -/
def execClearMdr0 (s : State) : Host.Outcome State Fault Refusal :=
  issue { target := .mdr0, action := .clear } [] s

/-- R124: `Clear Mdr1`. -/
def execClearMdr1 (s : State) : Host.Outcome State Fault Refusal :=
  issue { target := .mdr1, action := .clear } [] s

/-- R125: `Clear Dtr`. -/
def execClearDtr (s : State) : Host.Outcome State Fault Refusal :=
  issue { target := .dtr, action := .clear } [] s

/-- R126: `Clear Cntr`. -/
def execClearCntr (s : State) : Host.Outcome State Fault Refusal :=
  issue { target := .cntr, action := .clear } [] s

/-- R127: `Clear Otr`. -/
def execClearOtr (s : State) : Host.Outcome State Fault Refusal :=
  issue { target := .otr, action := .clear } [] s

/-- R128: `Clear Str`. -/
def execClearStr (s : State) : Host.Outcome State Fault Refusal :=
  issue { target := .str, action := .clear } [] s

/-- R150: target code 111 is the instruction `Clear None` of R122; the frame sent opens with the header the encoder
emits (R62). -/
def execClearNoneAlias (s : State) : Host.Outcome State Fault Refusal :=
  issue { target := .none, action := .clear } [] s

end Sys2Proof.Machine
end

