-- ==== Sys2Proof/Machine/Load.lean ====
section
/-! DEFINITION. Machine/Load.lean: the meanings of the Load instructions: one header byte through `writeBytes`, nothing captured. -/

namespace Sys2Proof.Machine

open Sys2Proof

/-- R143: `Load None`. -/
def execLoadNone (s : State) : Host.Outcome State Fault Refusal :=
  issue { target := .none, action := .load } [] s

/-- R144: `Load Mdr0`. -/
def execLoadMdr0 (s : State) : Host.Outcome State Fault Refusal :=
  issue { target := .mdr0, action := .load } [] s

/-- R145: `Load Mdr1`. -/
def execLoadMdr1 (s : State) : Host.Outcome State Fault Refusal :=
  issue { target := .mdr1, action := .load } [] s

/-- R146: `Load Dtr`. -/
def execLoadDtr (s : State) : Host.Outcome State Fault Refusal :=
  issue { target := .dtr, action := .load } [] s

/-- R147: `Load Cntr`. -/
def execLoadCntr (s : State) : Host.Outcome State Fault Refusal :=
  issue { target := .cntr, action := .load } [] s

/-- R148: `Load Otr`. -/
def execLoadOtr (s : State) : Host.Outcome State Fault Refusal :=
  issue { target := .otr, action := .load } [] s

/-- R149: `Load Str`. -/
def execLoadStr (s : State) : Host.Outcome State Fault Refusal :=
  issue { target := .str, action := .load } [] s

/-- R150: target code 111 is the instruction `Load None` of R143; the frame sent opens with the header the encoder
emits (R62). -/
def execLoadNoneAlias (s : State) : Host.Outcome State Fault Refusal :=
  issue { target := .none, action := .load } [] s

end Sys2Proof.Machine
end

