-- ==== Sys2Proof/Machine/Read.lean ====
section
/-! DEFINITION. Machine/Read.lean: the meanings of the Read instructions: header and four zero bytes through `transferBytes`; the operation gets `resp[1..4]`. -/

namespace Sys2Proof.Machine

open Sys2Proof

/-- R129: `Read None`. -/
def execReadNone (s : State) : Host.Outcome State Fault Refusal :=
  issue { target := .none, action := .read } [] s

/-- R130: `Read Mdr0`. -/
def execReadMdr0 (s : State) : Host.Outcome State Fault Refusal :=
  issue { target := .mdr0, action := .read } [] s

/-- R131: `Read Mdr1`. -/
def execReadMdr1 (s : State) : Host.Outcome State Fault Refusal :=
  issue { target := .mdr1, action := .read } [] s

/-- R132: `Read Dtr`. -/
def execReadDtr (s : State) : Host.Outcome State Fault Refusal :=
  issue { target := .dtr, action := .read } [] s

/-- R133: `Read Cntr`. -/
def execReadCntr (s : State) : Host.Outcome State Fault Refusal :=
  issue { target := .cntr, action := .read } [] s

/-- R134: `Read Otr`. -/
def execReadOtr (s : State) : Host.Outcome State Fault Refusal :=
  issue { target := .otr, action := .read } [] s

/-- R135: `Read Str`. -/
def execReadStr (s : State) : Host.Outcome State Fault Refusal :=
  issue { target := .str, action := .read } [] s

/-- R150: target code 111 is the instruction `Read None` of R129; the frame sent opens with the header the encoder
emits (R62). -/
def execReadNoneAlias (s : State) : Host.Outcome State Fault Refusal :=
  issue { target := .none, action := .read } [] s

end Sys2Proof.Machine
end

