-- ==== Sys2Proof/Machine/Write.lean ====
section
/-! DEFINITION. Machine/Write.lean: the meanings of the Write instructions: header and payload through `writeBytes`. -/

namespace Sys2Proof.Machine

open Sys2Proof

/-- R136: `Write None`. -/
def execWriteNone (data : List Byte) (s : State) : Host.Outcome State Fault Refusal :=
  issue { target := .none, action := .write } data s

/-- R137: `Write Mdr0`. -/
def execWriteMdr0 (data : List Byte) (s : State) : Host.Outcome State Fault Refusal :=
  issue { target := .mdr0, action := .write } data s

/-- R138: `Write Mdr1`. -/
def execWriteMdr1 (data : List Byte) (s : State) : Host.Outcome State Fault Refusal :=
  issue { target := .mdr1, action := .write } data s

/-- R139: `Write Dtr`. -/
def execWriteDtr (data : List Byte) (s : State) : Host.Outcome State Fault Refusal :=
  issue { target := .dtr, action := .write } data s

/-- R140: `Write Cntr`. -/
def execWriteCntr (data : List Byte) (s : State) : Host.Outcome State Fault Refusal :=
  issue { target := .cntr, action := .write } data s

/-- R141: `Write Otr`. -/
def execWriteOtr (data : List Byte) (s : State) : Host.Outcome State Fault Refusal :=
  issue { target := .otr, action := .write } data s

/-- R142: `Write Str`. -/
def execWriteStr (data : List Byte) (s : State) : Host.Outcome State Fault Refusal :=
  issue { target := .str, action := .write } data s

/-- R150: target code 111 is the instruction `Write None` of R136; the frame sent opens with the header the encoder
emits (R62). -/
def execWriteNoneAlias (data : List Byte) (s : State) : Host.Outcome State Fault Refusal :=
  issue { target := .none, action := .write } data s

end Sys2Proof.Machine
end

