-- ==== Sys2Proof/Machine/Dispatch.lean ====
section
/-! DEFINITION. Machine/Dispatch.lean: one arm per wire instruction. -/

namespace Sys2Proof.Machine

def exec (i : Instr) (s : State) : Host.Outcome State Fault Refusal :=
  match i with
  | .clearNone => Sys2Proof.Machine.execClearNone s
  | .clearMdr0 => Sys2Proof.Machine.execClearMdr0 s
  | .clearMdr1 => Sys2Proof.Machine.execClearMdr1 s
  | .clearDtr => Sys2Proof.Machine.execClearDtr s
  | .clearCntr => Sys2Proof.Machine.execClearCntr s
  | .clearOtr => Sys2Proof.Machine.execClearOtr s
  | .clearStr => Sys2Proof.Machine.execClearStr s
  | .clearNoneAlias => Sys2Proof.Machine.execClearNoneAlias s
  | .readNone => Sys2Proof.Machine.execReadNone s
  | .readMdr0 => Sys2Proof.Machine.execReadMdr0 s
  | .readMdr1 => Sys2Proof.Machine.execReadMdr1 s
  | .readDtr => Sys2Proof.Machine.execReadDtr s
  | .readCntr => Sys2Proof.Machine.execReadCntr s
  | .readOtr => Sys2Proof.Machine.execReadOtr s
  | .readStr => Sys2Proof.Machine.execReadStr s
  | .readNoneAlias => Sys2Proof.Machine.execReadNoneAlias s
  | .writeNone data => Sys2Proof.Machine.execWriteNone data s
  | .writeMdr0 data => Sys2Proof.Machine.execWriteMdr0 data s
  | .writeMdr1 data => Sys2Proof.Machine.execWriteMdr1 data s
  | .writeDtr data => Sys2Proof.Machine.execWriteDtr data s
  | .writeCntr data => Sys2Proof.Machine.execWriteCntr data s
  | .writeOtr data => Sys2Proof.Machine.execWriteOtr data s
  | .writeStr data => Sys2Proof.Machine.execWriteStr data s
  | .writeNoneAlias data => Sys2Proof.Machine.execWriteNoneAlias data s
  | .loadNone => Sys2Proof.Machine.execLoadNone s
  | .loadMdr0 => Sys2Proof.Machine.execLoadMdr0 s
  | .loadMdr1 => Sys2Proof.Machine.execLoadMdr1 s
  | .loadDtr => Sys2Proof.Machine.execLoadDtr s
  | .loadCntr => Sys2Proof.Machine.execLoadCntr s
  | .loadOtr => Sys2Proof.Machine.execLoadOtr s
  | .loadStr => Sys2Proof.Machine.execLoadStr s
  | .loadNoneAlias => Sys2Proof.Machine.execLoadNoneAlias s

end Sys2Proof.Machine
end

