-- ==== Sys2Proof/Machine/Orchestrator.lean ====
section
/-! DEFINITION. Machine/Orchestrator.lean: how an operation is run: its list of wire instructions (R153 to R161), its payload check
(R168), one transport invocation per step (R16), and the response its captured bytes give (R159, R160, R166). -/

namespace Sys2Proof.Machine

open Sys2Proof

/-- The payload check an operation makes before any bus activity (R153, R155, R156, R168). -/
def Operation.payloadOk : Operation → Bool
  | .writeRegister _ data => payloadFits .write data
  | .readRegister _ => true
  | .act h data => payloadFits h.action data
  | .getStatus => true
  | .getCount => true
  | .initializeDefaults => true

/-- The wire instructions of an operation, in order (R153 to R161). -/
def Operation.program : Operation → List Instr
  | .writeRegister t data => [Instr.ofHeader { target := t, action := .write } data]
  | .readRegister t => [Instr.ofHeader { target := t, action := .read } []]
  | .act h data => [Instr.ofHeader h data]
  | .getStatus => [.readStr]
  | .getCount => [.readCntr, .readStr]
  | .initializeDefaults =>
    [.writeMdr0 [Mdr0.encode defaultMdr0],
     .writeMdr1 [Mdr1.encode defaultMdr1],
     .writeDtr [0x00#8, 0x00#8, 0x00#8, 0x00#8],
     .loadCntr]

/-- The wire instructions of a job. -/
def Job.program : Job → List Instr
  | .operation o => Operation.program o
  | .wire i => [i]

/-- How many data bytes a successful wire instruction hands back: 4 for a Read, none otherwise (R41). -/
def replyBytes (i : Instr) : Nat :=
  match i.action with
  | .clear => 0
  | .read => Config.readDataLen
  | .write => 0
  | .load => 0

/-- The wire instruction of the context's current step; none where the captured bytes are not those of the steps before it,
or no step is left. -/
def Context.current (c : Context) : Option Instr :=
  if c.captured.length = (((Job.program c.job).take c.index).map replyBytes).sum then (Job.program c.job)[c.index]?
  else none

/-- R159: the status of the last of the 4 bytes; a decode failure would be `Decode` (R170). -/
def statusResponse (b : Byte) : Response :=
  match Str.decode b with
  | .ok st => .ok (.status st)
  | .err f => .err (.decode f)

/-- R160: the count of the 4 Cntr bytes with the sign of the status byte. -/
def countResponse (m : List Byte) (b : Byte) : Option Response :=
  match Str.decode b with
  | .ok st => (reconstruct m st.sign).map fun c => .ok (.count c)
  | .err f => some (.err (.decode f))

/-- The success response of a job whose steps have all succeeded, from the bytes they captured (R166); none for captured bytes
no run gives. -/
def Job.finish (j : Job) (captured : List Byte) : Option Response :=
  match j with
  | .operation (.writeRegister _ _) => some (.ok .unit)
  | .operation (.readRegister _) => some (.ok (.bytes captured))
  | .operation (.act _ _) => some (.ok (.bytes captured))
  | .operation .getStatus =>
    match captured with
    | [_, _, _, b] => some (statusResponse b)
    | _ => none
  | .operation .getCount =>
    match captured with
    | [m1, m2, m3, m4, _, _, _, b] => countResponse [m1, m2, m3, m4] b
    | _ => none
  | .operation .initializeDefaults => some (.ok .unit)
  | .wire _ => some (.ok (.bytes captured))

/-- After a step that succeeded: the index advances by one, or, after the last step, the response is given (R16, R50 (c)).
The last arm keeps the state: no context with a current step reaches it. -/
def advance (c : Context) (bytes : List Byte) (s : State) : State :=
  if c.index + 1 < (Job.program c.job).length then
    (s.setLink .quiet).setContext
      (some { job := c.job, index := c.index + 1, captured := c.captured ++ bytes })
  else
    match Job.finish c.job (c.captured ++ bytes) with
    | some r => respond r s
    | none => s

/-- What the operation does with the result of its wire instruction: go on, end at once with the error (R54, R162, R174), or
stay in flight while the invocation has not returned (R197). -/
def settle (c : Context) (s : State) : State :=
  match s.link with
  | .replied (.ok bytes) => advance c bytes s
  | .replied (.err e) => respond (.err e) s
  | .waiting _ => s
  | .quiet => s

/-- One step of the operation in flight: its current wire instruction, then what follows from the result. -/
def runCurrent (c : Context) (s : State) : Host.Outcome State Fault Refusal :=
  match Context.current c with
  | none => .fault .contextOutOfRange
  | some i =>
    match exec i (s.setContext (some c)) with
    | .next t => .next (settle c t)
    | .fault f => .fault f
    | .refused r => .refused r

/-- A job starts at its first step with nothing captured (R16, R33). -/
def Context.start (j : Job) : Context := { job := j, index := 0, captured := [] }

/-- Accepting the oldest request when nothing is in flight (R165), and its first step; a request whose payload is too big is
answered with no bus activity (R168); with no request the block waits (R185). -/
def accept (s : State) : Host.Outcome State Fault Refusal :=
  match s.requests with
  | [] => .next s
  | .operation o :: rest =>
    if Operation.payloadOk o then runCurrent (Context.start (.operation o)) (s.setRequests rest)
    else .next (respond (.err .payloadTooBig) (s.setRequests rest))
  | .encoded bytes :: rest =>
    match decode bytes with
    | .ok i => runCurrent (Context.start (.wire i)) (s.setRequests rest)
    | .err .payloadTooBig => .next (respond (.err .payloadTooBig) (s.setRequests rest))
    | .err (.field f) => .next (respond (.err (.decode f)) (s.setRequests rest))
    | .err .noHeader => .refused .emptyFrame

/-- What the engine does when no codec call is waiting: nothing while an invocation has not returned (R197); else the next step
of the operation in flight; else accept. -/
def runEngine (s : State) : Host.Outcome State Fault Refusal :=
  if s.link.blocked then .next s
  else
    match s.inFlight with
    | some c => runCurrent c s
    | none => accept s

end Sys2Proof.Machine
end

