-- ==== Sys2Proof/Machine/Step.lean ====
section
/-! DEFINITION. Machine/Step.lean: one step, and how the host's table word is placed where the next step takes it. -/

namespace Sys2Proof.Machine

open Sys2Proof

/-- One step: a waiting codec call is evaluated first (it touches nothing of the engine, log entry 6); else one step of the
engine, which makes at most one transport invocation (R5). -/
def step (s : State) : Host.Outcome State Fault Refusal :=
  match s.codecCalls with
  | c :: rest => serveCodec c rest s
  | [] => runEngine s

/-- The instruction of a table word as the host's next request, encoded, with the block idle so that the next step accepts
it (log entry 5). -/
def State.withFetchWord (s : State) (nbits w : Nat) : State :=
  { s with
    codecCalls := []
    inFlight := none
    link := .quiet
    requests := .encoded (tableWordBytes nbits w) :: s.requests }

end Sys2Proof.Machine
end

