-- ==== Sys2Proof/Machine/Reference.lean ====
section
/-! DEFINITION. Machine/Reference.lean: the six operations transcribed a second time, as the spec's pseudocode has them (R153 to
R161): each calls the operations inside it, against a transport whose k-th answer is given. The step function runs the same
operations one invocation at a time; that the two agree is an obligation. -/

namespace Sys2Proof.Machine

open Sys2Proof

/-- What one operation is observed as: its invocations in order, and its response; no response if an invocation never
returns (R197). -/
structure Run where
  events : List Event
  response : Option Response
deriving DecidableEq, Repr

namespace Reference

/-- `Ok(v)` or `raise E`: the operation ends here (R9). -/
def done (r : Response) : Run := { events := [], response := some r }

def withEvent (e : Event) (r : Run) : Run := { r with events := e :: r.events }

/-- `BusWrite(buf)?` (R38, R54), the k-th invocation. -/
def busWrite (ans : Nat → Answer) (k : Nat) (buf : List Byte) (cont : Nat → Run) : Run :=
  match ans k with
  | .success _ => withEvent ⟨⟨.writeBytes, buf⟩, .done⟩ (cont (k + 1))
  | .failure e => withEvent ⟨⟨.writeBytes, buf⟩, .failed e⟩ (done (.err (.transport e)))
  | .hang => { events := [⟨⟨.writeBytes, buf⟩, .notReturned⟩], response := none }

/-- `resp <- BusTransfer(buf)?` (R39, R54), the k-th invocation. -/
def busTransfer (ans : Nat → Answer) (k : Nat) (buf : List Byte) (cont : Nat → ReadResponse → Run) : Run :=
  match ans k with
  | .success resp => withEvent ⟨⟨.transferBytes, buf⟩, .captured resp⟩ (cont (k + 1) resp)
  | .failure e => withEvent ⟨⟨.transferBytes, buf⟩, .failed e⟩ (done (.err (.transport e)))
  | .hang => { events := [⟨⟨.transferBytes, buf⟩, .notReturned⟩], response := none }

/-- R153. -/
def writeRegister (ans : Nat → Answer) (k : Nat) (t : RegisterTarget) (data : List Byte) (cont : Nat → Run) : Run :=
  if data.length > 4 then done (.err .payloadTooBig)
  else busWrite ans k (Header.encode ⟨t, .write⟩ :: data) cont

/-- R154; the continuation gets the response, of which it may use `resp[1..4]`. -/
def readRegister (ans : Nat → Answer) (k : Nat) (t : RegisterTarget) (cont : Nat → ReadResponse → Run) : Run :=
  busTransfer ans k [Header.encode ⟨t, .read⟩, 0x00#8, 0x00#8, 0x00#8, 0x00#8] cont

/-- R155, R156, R157. -/
def act (ans : Nat → Answer) (k : Nat) (h : InstructionHeader) (data : List Byte) (cont : Nat → List Byte → Run) : Run :=
  match h.action with
  | .clear =>
    if data.length ≠ 0 then done (.err .payloadTooBig)
    else busWrite ans k [Header.encode h] fun k => cont k []
  | .load =>
    if data.length ≠ 0 then done (.err .payloadTooBig)
    else busWrite ans k [Header.encode h] fun k => cont k []
  | .write =>
    if data.length > 4 then done (.err .payloadTooBig)
    else busWrite ans k (Header.encode h :: data) fun k => cont k []
  | .read =>
    busTransfer ans k [Header.encode h, 0x00#8, 0x00#8, 0x00#8, 0x00#8] fun k resp =>
      cont k [resp.d1, resp.d2, resp.d3, resp.d4]

/-- R159. -/
def getStatus (ans : Nat → Answer) (k : Nat) (cont : Nat → StatusSnapshot → Run) : Run :=
  readRegister ans k .str fun k resp =>
    match Str.decode resp.d4 with
    | .ok s => cont k s
    | .err f => done (.err (.decode f))

/-- R116 on the 4 bytes of a Cntr read, the byte weights written out (R114, R117). -/
def signedCount (m : ReadResponse) (sign : Sign) : SignedCount :=
  let magnitude : Int := m.d1.toNat * 2 ^ 24 + m.d2.toNat * 2 ^ 16 + m.d3.toNat * 2 ^ 8 + m.d4.toNat
  BitVec.ofInt 64 (if sign = .negative then -magnitude else magnitude)

/-- R160. -/
def getCount (ans : Nat → Answer) (k : Nat) (cont : Nat → SignedCount → Run) : Run :=
  readRegister ans k .cntr fun k m =>
    getStatus ans k fun k s => cont k (signedCount m s.sign)

/-- R161. -/
def initializeDefaults (ans : Nat → Answer) (k : Nat) (cont : Nat → Run) : Run :=
  writeRegister ans k .mdr0 [Mdr0.encode defaultMdr0] fun k =>
  writeRegister ans k .mdr1 [Mdr1.encode defaultMdr1] fun k =>
  writeRegister ans k .dtr [0x00#8, 0x00#8, 0x00#8, 0x00#8] fun k =>
  act ans k ⟨.cntr, .load⟩ [] fun k _ => cont k

/-- An operation as a whole, with its success value (R166). -/
def run (o : Operation) (ans : Nat → Answer) : Run :=
  match o with
  | .writeRegister t data => writeRegister ans 0 t data fun _ => done (.ok .unit)
  | .readRegister t => readRegister ans 0 t fun _ resp => done (.ok (.bytes [resp.d1, resp.d2, resp.d3, resp.d4]))
  | .act h data => act ans 0 h data fun _ bytes => done (.ok (.bytes bytes))
  | .getStatus => getStatus ans 0 fun _ s => done (.ok (.status s))
  | .getCount => getCount ans 0 fun _ c => done (.ok (.count c))
  | .initializeDefaults => initializeDefaults ans 0 fun _ => done (.ok .unit)

end Reference

end Sys2Proof.Machine
end

