-- ==== Sys2Proof/Safety.lean ====
section
/-! DEFINITION. Safety.lean: the terms the statements use: the state between steps (idle, ready, blocked), legal frames, legal
responses, the invariant, the premise that the transport returns (R8), and the end of a run (R200). -/

namespace Sys2Proof.Machine

open Sys2Proof

/-- A result a write can have (R38). -/
def BusResult.ofWrite : BusResult → Bool
  | .done => true
  | .captured _ => false
  | .failed _ => true
  | .notReturned => true

/-- A result a transfer can have (R39). -/
def BusResult.ofTransfer : BusResult → Bool
  | .done => false
  | .captured _ => true
  | .failed _ => true
  | .notReturned => true

/-- R40, R41, R61, R62: a legal entry of the trace, read off its bytes alone: the header has bits 2 to 0 zero and a target code
other than 111; action 01 goes through a transfer with four zero bytes, action 10 through a write with at most 4 bytes, actions
00 and 11 through a write with none. -/
def Event.legal (e : Event) : Bool :=
  match e.invocation.frame with
  | [] => false
  | b :: tail =>
    decide (b &&& 0x07#8 = 0x00#8) && decide (b &&& 0x38#8 ≠ 0x38#8) &&
      (if b &&& 0xC0#8 = 0x40#8 then
        decide (e.invocation.primitive = .transferBytes) && decide (tail = [0x00#8, 0x00#8, 0x00#8, 0x00#8])
          && e.result.ofTransfer
      else if b &&& 0xC0#8 = 0x80#8 then
        decide (e.invocation.primitive = .writeBytes) && decide (tail.length ≤ 4) && e.result.ofWrite
      else
        decide (e.invocation.primitive = .writeBytes) && decide (tail = []) && e.result.ofWrite)

/-- R166, R117 (c), R170: a response the host can get: a byte result has 0 or 4 bytes, a count lies within the magnitude of 4
bytes, and the error is never `Decode`. -/
def responseLegal : Response → Bool
  | .ok .unit => true
  | .ok (.bytes data) => decide (data.length = 0 ∨ data.length = 4)
  | .ok (.status _) => true
  | .ok (.count c) => decide (-4294967295 ≤ c.toInt ∧ c.toInt ≤ 4294967295)
  | .err .payloadTooBig => true
  | .err (.transport _) => true
  | .err (.decode _) => false

/-- Whether a decode result is a failure. -/
def resultFailed {α : Type} : Result DecodeFailure α → Bool
  | .ok _ => false
  | .err _ => true

/-- R81: whether a codec's value is a decode failure. -/
def CodecValue.failed : CodecValue → Bool
  | .code1 _ => false
  | .code2 _ => false
  | .code3 _ => false
  | .byte _ => false
  | .target r => resultFailed r
  | .action r => resultFailed r
  | .quadMode r => resultFailed r
  | .cycleMode r => resultFailed r
  | .indexMode r => resultFailed r
  | .filterClock r => resultFailed r
  | .counterMode r => resultFailed r
  | .bool r => resultFailed r
  | .sign r => resultFailed r
  | .direction r => resultFailed r
  | .header r => resultFailed r
  | .mdr0 r => resultFailed r
  | .mdr1 r => resultFailed r
  | .status r => resultFailed r
  | .unsigned _ => false
  | .count _ => false

/-- The payload check of a job was passed before it started (R121, R168). -/
def Job.payloadOk : Job → Bool
  | .operation o => Operation.payloadOk o
  | .wire i => i.wf

/-- R33: an in-flight context that is at a step of its job, with the bytes of the steps before it. -/
def Context.wf (c : Context) : Bool := (Context.current c).isSome && Job.payloadOk c.job

/-- R33, R35, R197: the transport interface between steps: quiet, or holding the invocation of the current step, which is the
last of the trace and has not returned. -/
def State.LinkOk (s : State) : Prop :=
  s.link = .quiet ∨
    ∃ c i, s.inFlight = some c ∧ Context.current c = some i ∧
      s.link = .waiting (invocationOf i.header i.payload) ∧
      s.trace.getLast? = some { invocation := invocationOf i.header i.payload, result := .notReturned }

/-- The invariant every step keeps. -/
structure State.Inv (s : State) : Prop where
  trace_legal : ∀ e ∈ s.trace, e.legal = true
  context_ok : ∀ c, s.inFlight = some c → c.wf = true
  link_ok : s.LinkOk
  responses_legal : ∀ r ∈ s.responses, responseLegal r = true
  codec_ok : ∀ v ∈ s.codecResults, CodecValue.failed v = false

/-- `k` steps of the machine, stopping at the first fault or refusal (Host.Core.run). -/
def runSteps (k : Nat) (s : State) : Host.Outcome State Fault Refusal := Host.Core.run Sys2Proof.core k s

/-- The engine is free to act: no codec call comes first, and no invocation holds the interface. -/
def State.Free (s : State) : Prop := s.codecCalls = [] ∧ s.link.blocked = false

/-- Idle, with the request `r` next and `rest` behind it (R35, R165). -/
def State.Ready (s : State) (r : Request) (rest : List Request) : Prop :=
  s.Free ∧ s.inFlight = none ∧ s.requests = r :: rest

/-- The state after a request has been answered: `events` were its invocations and `r` its response; the rest of the state is as
before, idle again. -/
def State.answered (s : State) (rest : List Request) (events : List Event) (r : Response) : State :=
  { requests := rest
    codecCalls := s.codecCalls
    inFlight := none
    link := .quiet
    answers := s.answers.drop events.length
    draws := s.draws + events.length
    trace := s.trace ++ events
    responses := s.responses ++ [r]
    codecResults := s.codecResults }

/-- The state after an instruction's one invocation, with what the interface then holds: nothing else has changed (R120). -/
def State.sent (s : State) (p : Primitive) (frame : List Byte) (result : BusResult) (link : Link) : State :=
  { requests := s.requests
    codecCalls := s.codecCalls
    inFlight := s.inFlight
    link := link
    answers := s.answers.tail
    draws := s.draws + 1
    trace := s.trace ++ [{ invocation := { primitive := p, frame := frame }, result := result }]
    responses := s.responses
    codecResults := s.codecResults }

/-- The premise `TransportTerminates` (R8, R197), as far as a claim needs it: each of the next n invocations returns. -/
def State.TransportReturns (s : State) (n : Nat) : Prop := ∀ k < n, s.answerAt k ≠ .hang

/-- R200: no request is left and none is in flight. -/
def State.RunOver (s : State) : Prop := s.requests = [] ∧ s.inFlight = none

/-- The same machine with a longer past: what earlier operations left to be observed (R11) put before what is there. -/
def State.withPast (s : State) (trace : List Event) (responses : List Response) (results : List CodecValue) : State :=
  { s with trace := trace ++ s.trace, responses := responses ++ s.responses, codecResults := results ++ s.codecResults }

/-- What a request is once accepted: its operation, or the wire instruction its bytes decode to (log entry 5). -/
def Request.job : Request → Option Job
  | .operation o => some (.operation o)
  | .encoded bytes =>
    match decode bytes with
    | .ok i => some (.wire i)
    | .err _ => none

/-- An outcome's next state, changed. -/
def mapNext (f : State → State) : Host.Outcome State Fault Refusal → Host.Outcome State Fault Refusal
  | .next s => .next (f s)
  | .fault e => .fault e
  | .refused e => .refused e

/-- Whether an outcome is a next state. -/
def isNext : Host.Outcome State Fault Refusal → Bool
  | .next _ => true
  | .fault _ => false
  | .refused _ => false

end Sys2Proof.Machine
end

