-- ==== Sys2Proof/Certificates/Slice0/Obligations.lean ====
section
/-! DEFINITION. Certificates/Slice0/Obligations.lean: the statements for the provers. `s.answerAt k` is the transport's answer to the
k-th invocation from `s`: a free value wherever none is lined up, so each statement holds for every answer. -/

open Sys2Proof Sys2Proof.Machine

/-- R84, R85, R86: `Target.decode` on all 8 codes (000 and 111 are both None), and the action codes with the bijection's other
direction. That what 111 decodes to encodes as 000 is the spec's own decision D5 (log entry 17). -/
def Obligations.TargetAndActionCodeTables : Prop :=
  (Target.decode 0b000#3 = .ok .none ∧ Target.decode 0b001#3 = .ok .mdr0 ∧ Target.decode 0b010#3 = .ok .mdr1 ∧
    Target.decode 0b011#3 = .ok .dtr ∧ Target.decode 0b100#3 = .ok .cntr ∧ Target.decode 0b101#3 = .ok .otr ∧
    Target.decode 0b110#3 = .ok .str ∧ Target.decode 0b111#3 = .ok .none ∧
    ∀ t, Target.decode 0b111#3 = .ok t → Target.encode t = 0b000#3) ∧
  (Action.encode .clear = 0b00#2 ∧ Action.encode .read = 0b01#2 ∧ Action.encode .write = 0b10#2 ∧
    Action.encode .load = 0b11#2 ∧ ∀ c a, Action.decode c = .ok a ↔ Action.encode a = c)

/-- R87, R88, R89, R91: the four 2-bit mode codecs are the bijections of their tables. -/
def Obligations.ModeCodecsAreBijections : Prop :=
  (QuadMode.encode .nonQuad = 0b00#2 ∧ QuadMode.encode .quad1x = 0b01#2 ∧ QuadMode.encode .quad2x = 0b10#2 ∧
    QuadMode.encode .quad4x = 0b11#2 ∧ ∀ c m, QuadMode.decode c = .ok m ↔ QuadMode.encode m = c) ∧
  (CycleMode.encode .freeRunning = 0b00#2 ∧ CycleMode.encode .singleCycle = 0b01#2 ∧
    CycleMode.encode .rangeLimit = 0b10#2 ∧ CycleMode.encode .moduloN = 0b11#2 ∧
    ∀ c m, CycleMode.decode c = .ok m ↔ CycleMode.encode m = c) ∧
  (IndexMode.encode .disableIndex = 0b00#2 ∧ IndexMode.encode .loadCntr = 0b01#2 ∧
    IndexMode.encode .clearCntr = 0b10#2 ∧ IndexMode.encode .loadOtr = 0b11#2 ∧
    ∀ c m, IndexMode.decode c = .ok m ↔ IndexMode.encode m = c) ∧
  (CounterMode.encode .byte4 = 0b00#2 ∧ CounterMode.encode .byte3 = 0b01#2 ∧ CounterMode.encode .byte2 = 0b10#2 ∧
    CounterMode.encode .byte1 = 0b11#2 ∧ (∀ c m, CounterMode.decode c = .ok m ↔ CounterMode.encode m = c) ∧
    ∀ m, CounterMode.significantBytes m + (CounterMode.encode m).toNat = 4)

/-- The codes that are the spec's own decisions: D3 (filter clock), D4 (booleans), D1 (sign, direction), D5 (None). -/
def Obligations.DecidedCodeTables : Prop :=
  (FilterClock.encode .one = 0#1 ∧ FilterClock.encode .two = 1#1 ∧
    ∀ c m, FilterClock.decode c = .ok m ↔ FilterClock.encode m = c) ∧
  (BoolCode.encode false = 0#1 ∧ BoolCode.encode true = 1#1 ∧ ∀ c b, BoolCode.decode c = .ok b ↔ BoolCode.encode b = c) ∧
  (SignCode.decode 0#1 = .ok .positive ∧ SignCode.decode 1#1 = .ok .negative) ∧
  (DirectionCode.decode 0#1 = .ok .down ∧ DirectionCode.decode 1#1 = .ok .up) ∧
  (Target.encode .none = 0b000#3 ∧ Target.encode .mdr0 = 0b001#3 ∧ Target.encode .mdr1 = 0b010#3 ∧
    Target.encode .dtr = 0b011#3 ∧ Target.encode .cntr = 0b100#3 ∧ Target.encode .otr = 0b101#3 ∧
    Target.encode .str = 0b110#3)

/-- The opcode map of section 7 of 30_encoding.md: the 28 header bytes the encoder emits, and the four bytes of its last column,
which are only decoded. -/
def Obligations.HeaderEncodeTable : Prop :=
  (∀ p ∈ [
      ((⟨.none, .clear⟩ : InstructionHeader), 0x00#8), ((⟨.mdr0, .clear⟩ : InstructionHeader), 0x08#8),
      ((⟨.mdr1, .clear⟩ : InstructionHeader), 0x10#8), ((⟨.dtr, .clear⟩ : InstructionHeader), 0x18#8),
      ((⟨.cntr, .clear⟩ : InstructionHeader), 0x20#8), ((⟨.otr, .clear⟩ : InstructionHeader), 0x28#8),
      ((⟨.str, .clear⟩ : InstructionHeader), 0x30#8), ((⟨.none, .read⟩ : InstructionHeader), 0x40#8),
      ((⟨.mdr0, .read⟩ : InstructionHeader), 0x48#8), ((⟨.mdr1, .read⟩ : InstructionHeader), 0x50#8),
      ((⟨.dtr, .read⟩ : InstructionHeader), 0x58#8), ((⟨.cntr, .read⟩ : InstructionHeader), 0x60#8),
      ((⟨.otr, .read⟩ : InstructionHeader), 0x68#8), ((⟨.str, .read⟩ : InstructionHeader), 0x70#8),
      ((⟨.none, .write⟩ : InstructionHeader), 0x80#8), ((⟨.mdr0, .write⟩ : InstructionHeader), 0x88#8),
      ((⟨.mdr1, .write⟩ : InstructionHeader), 0x90#8), ((⟨.dtr, .write⟩ : InstructionHeader), 0x98#8),
      ((⟨.cntr, .write⟩ : InstructionHeader), 0xA0#8), ((⟨.otr, .write⟩ : InstructionHeader), 0xA8#8),
      ((⟨.str, .write⟩ : InstructionHeader), 0xB0#8), ((⟨.none, .load⟩ : InstructionHeader), 0xC0#8),
      ((⟨.mdr0, .load⟩ : InstructionHeader), 0xC8#8), ((⟨.mdr1, .load⟩ : InstructionHeader), 0xD0#8),
      ((⟨.dtr, .load⟩ : InstructionHeader), 0xD8#8), ((⟨.cntr, .load⟩ : InstructionHeader), 0xE0#8),
      ((⟨.otr, .load⟩ : InstructionHeader), 0xE8#8), ((⟨.str, .load⟩ : InstructionHeader), 0xF0#8)],
    Header.encode p.1 = p.2) ∧
  ∀ p ∈ [(0x38#8, RegisterAction.clear), (0x78#8, .read), (0xB8#8, .write), (0xF8#8, .load)],
    Header.decode p.1 = .ok ⟨.none, p.2⟩ ∧ ∀ h, Header.encode h ≠ p.1

/-- R98: decode after encode, for all 28 pairs. -/
def Obligations.HeaderRoundTrip : Prop :=
  ∀ (t : RegisterTarget) (a : RegisterAction), Header.decode (Header.encode ⟨t, a⟩) = .ok ⟨t, a⟩

/-- R96, R99: every byte decodes, by its two fields; encoding the result clears bits 2 to 0, and the target bits too where they
are 111 (decisions D5, D6). -/
def Obligations.HeaderDecodeIsTotalAndCanonicalises : Prop :=
  ∀ b : Byte, ∃ t a, Target.decode (extract b 5 3) = .ok t ∧ Action.decode (extract b 7 6) = .ok a ∧
    Header.decode b = .ok ⟨t, a⟩ ∧
    Header.encode ⟨t, a⟩ = if extract b 5 3 = 0b111#3 then b &&& 0xC0#8 else b &&& 0xF8#8

/-- R63: the place of each field of the Mdr0 byte, and the byte's value. -/
def Obligations.Mdr0ByteLayout : Prop :=
  ∀ c : Mdr0Config,
    extract (Mdr0.encode c) 1 0 = QuadMode.encode c.quadMode ∧
    extract (Mdr0.encode c) 3 2 = CycleMode.encode c.cycleMode ∧
    extract (Mdr0.encode c) 5 4 = IndexMode.encode c.indexMode ∧
    extract (Mdr0.encode c) 6 6 = BoolCode.encode c.indexInverted ∧
    extract (Mdr0.encode c) 7 7 = FilterClock.encode c.filterClock ∧
    (Mdr0.encode c).toNat =
      (FilterClock.encode c.filterClock).toNat * 2 ^ 7 + (BoolCode.encode c.indexInverted).toNat * 2 ^ 6 +
      (IndexMode.encode c.indexMode).toNat * 2 ^ 4 + (CycleMode.encode c.cycleMode).toNat * 2 ^ 2 +
      (QuadMode.encode c.quadMode).toNat

/-- R69, R71, R106, R107: the place of each field of the Mdr1 byte (flags: decision D2), bit 3 written 0 (decision D7); the two
default configurations and their bytes (`indexInverted`: decision D8). -/
def Obligations.Mdr1ByteLayoutAndDefaults : Prop :=
  (defaultMdr0 = ⟨.quad4x, .freeRunning, .disableIndex, false, .one⟩ ∧ Mdr0.encode defaultMdr0 = 0x03#8 ∧
    defaultMdr1 = ⟨.byte4, false, false, false, false, false⟩ ∧ Mdr1.encode defaultMdr1 = 0x00#8) ∧
  ∀ c : Mdr1Config,
    extract (Mdr1.encode c) 1 0 = CounterMode.encode c.counterMode ∧
    (Mdr1.encode c).getLsbD 2 = c.countingDisabled ∧
    (Mdr1.encode c).getLsbD 3 = false ∧
    (Mdr1.encode c).getLsbD 4 = c.flagOnIndex ∧
    (Mdr1.encode c).getLsbD 5 = c.flagOnCompare ∧
    (Mdr1.encode c).getLsbD 6 = c.flagOnBorrow ∧
    (Mdr1.encode c).getLsbD 7 = c.flagOnCarry

/-- R102, R105: decode after encode for both configuration registers; the converse, exact for Mdr0, clears bit 3 for Mdr1. -/
def Obligations.ConfigRoundTrips : Prop :=
  (∀ c, Mdr0.decode (Mdr0.encode c) = .ok c) ∧
  (∀ c, Mdr1.decode (Mdr1.encode c) = .ok c) ∧
  (∀ b, ∃ c, Mdr0.decode b = .ok c ∧ Mdr0.encode c = b) ∧
  (∀ b, ∃ c, Mdr1.decode b = .ok c ∧ Mdr1.encode c = b &&& 0xF7#8)

/-- R110: the status decoder succeeds on every byte. -/
def Obligations.StrDecodeAlwaysSucceeds : Prop :=
  ∀ b : Byte, ∃ st, Str.decode b = .ok st

/-- R109, R112: each bit of Str is one field (decision D1), so distinct bytes decode to distinct snapshots, and every snapshot is
some byte's. -/
def Obligations.StrDecodeLayout : Prop :=
  (∀ b st, Str.decode b = .ok st →
    (st.sign = .negative ↔ b.getLsbD 0 = true) ∧ (st.countDirection = .up ↔ b.getLsbD 1 = true) ∧
    st.powerLoss = b.getLsbD 2 ∧ st.countingEnabled = b.getLsbD 3 ∧ st.index = b.getLsbD 4 ∧
    st.compare = b.getLsbD 5 ∧ st.borrow = b.getLsbD 6 ∧ st.carry = b.getLsbD 7) ∧
  (∀ b b', Str.decode b = Str.decode b' → b = b') ∧
  (∀ st, ∃ b, Str.decode b = .ok st)

/-- R114: on at most 4 bytes the value is the big-endian sum, equal to the fold from the left, and below 2^(8n). -/
def Obligations.BytesToUnsignedIsBigEndian : Prop :=
  ∀ s : List Byte, s.length ≤ 4 →
    ∃ n, bytesToUnsigned s = some n ∧
      n = ∑ i : Fin s.length, (s[i]).toNat <<< (8 * (s.length - 1 - i)) ∧
      n = s.foldl (fun acc b => (acc <<< 8) ||| b.toNat) 0 ∧
      n ≤ 2 ^ (8 * s.length) - 1

/-- R115: a sequence of more than 4 bytes is outside the domain: no value, and the codec port refuses it (decision D10). -/
def Obligations.LongSequencesAreRefused : Prop :=
  ∀ (bytes : List Byte) (sign : Sign), 4 < bytes.length →
    bytesToUnsigned bytes = none ∧ reconstruct bytes sign = none ∧
    ∀ (s : State) (rest : List CodecCall),
      (s.codecCalls = .bytesToUnsigned bytes :: rest → step s = .refused .sequenceTooLong) ∧
      (s.codecCalls = .reconstruct bytes sign :: rest → step s = .refused .sequenceTooLong)

/-- R116: `-magnitude` when the sign is Negative, else `magnitude`, as a 64-bit signed integer. -/
def Obligations.ReconstructIsSignAndMagnitude : Prop :=
  ∀ (bytes : List Byte) (sign : Sign), bytes.length ≤ 4 →
    ∃ (magnitude : Nat) (c : SignedCount), bytesToUnsigned bytes = some magnitude ∧ reconstruct bytes sign = some c ∧
      c.toInt = if sign = .negative then -(magnitude : Int) else (magnitude : Int)

/-- R117 (c), R118, R119: the range of the result, its negation, the one zero, and that the bytes are not read as two's
complement. -/
def Obligations.ReconstructRangeAndZero : Prop :=
  (∀ bytes : List Byte, bytes.length ≤ 4 →
    ∃ p n, reconstruct bytes .positive = some p ∧ reconstruct bytes .negative = some n ∧
      0 ≤ p.toInt ∧ p.toInt ≤ 4294967295 ∧ n.toInt = -p.toInt ∧ (n = p ↔ ∀ b ∈ bytes, b = 0x00#8)) ∧
  reconstruct [0xFF#8, 0xFF#8, 0xFF#8, 0xFF#8] .negative = some 0xFFFFFFFF00000001#64

/-- R6, R165: a codec call is evaluated in any state, an operation in flight or not, and changes only the codec port (the port is
the model's, log entry 6); every call has a value but a byte sequence of more than 4 bytes (R115: decision D10, log entry 13). -/
def Obligations.CodecCallsAreEvaluatedAnyTime : Prop :=
  (∀ (s : State) c rest v, s.codecCalls = c :: rest → evalCodec c = some v →
    step s = .next { s with codecCalls := rest, codecResults := s.codecResults ++ [v] }) ∧
  ∀ c, evalCodec c = none ↔
    (∃ bytes, c = .bytesToUnsigned bytes ∧ 4 < bytes.length) ∨
    (∃ bytes sign, c = .reconstruct bytes sign ∧ 4 < bytes.length)

/-- R123 to R128: Clear on each register sends its one header byte through a write and hands back nothing; a failure hands back the
transport's error; nothing else changes. -/
def Obligations.ClearRegisterSendsItsHeader : Prop :=
  ∀ (s : State) (i : Instr) (b : Byte), s.link.blocked = false →
    (i, b) ∈ [
      (Instr.clearMdr0, 0x08#8), (Instr.clearMdr1, 0x10#8), (Instr.clearDtr, 0x18#8), (Instr.clearCntr, 0x20#8),
      (Instr.clearOtr, 0x28#8), (Instr.clearStr, 0x30#8)] →
    (∀ r, s.answerAt 0 = .success r →
      exec i s = .next (s.sent .writeBytes [b] .done (.replied (.ok [])))) ∧
    (∀ e, s.answerAt 0 = .failure e →
      exec i s = .next (s.sent .writeBytes [b] (.failed e) (.replied (.err (.transport e)))))

/-- R130 to R135: Read on each register exchanges its header and four zero bytes, and hands back `resp[1..4]`; `resp[0]` is
dropped; nothing else changes. -/
def Obligations.ReadRegisterExchangesFiveBytes : Prop :=
  ∀ (s : State) (i : Instr) (b : Byte), s.link.blocked = false →
    (i, b) ∈ [
      (Instr.readMdr0, 0x48#8), (Instr.readMdr1, 0x50#8), (Instr.readDtr, 0x58#8), (Instr.readCntr, 0x60#8),
      (Instr.readOtr, 0x68#8), (Instr.readStr, 0x70#8)] →
    (∀ r, s.answerAt 0 = .success r →
      exec i s = .next (s.sent .transferBytes [b, 0x00#8, 0x00#8, 0x00#8, 0x00#8] (.captured r)
        (.replied (.ok [r.d1, r.d2, r.d3, r.d4])))) ∧
    (∀ e, s.answerAt 0 = .failure e →
      exec i s = .next (s.sent .transferBytes [b, 0x00#8, 0x00#8, 0x00#8, 0x00#8] (.failed e)
        (.replied (.err (.transport e)))))

/-- R137 to R142: Write on each register, Str included, sends its header and the payload unchanged; nothing else changes. -/
def Obligations.WriteRegisterSendsHeaderAndPayload : Prop :=
  ∀ (s : State) (i : Instr) (b : Byte) (data : List Byte), s.link.blocked = false → data.length ≤ 4 →
    (i, b) ∈ [
      (Instr.writeMdr0 data, 0x88#8), (Instr.writeMdr1 data, 0x90#8), (Instr.writeDtr data, 0x98#8),
      (Instr.writeCntr data, 0xA0#8), (Instr.writeOtr data, 0xA8#8), (Instr.writeStr data, 0xB0#8)] →
    (∀ r, s.answerAt 0 = .success r →
      exec i s = .next (s.sent .writeBytes (b :: data) .done (.replied (.ok [])))) ∧
    (∀ e, s.answerAt 0 = .failure e →
      exec i s = .next (s.sent .writeBytes (b :: data) (.failed e) (.replied (.err (.transport e)))))

/-- R144 to R149: Load on each register sends its one header byte and hands back nothing; nothing else changes. -/
def Obligations.LoadRegisterSendsItsHeader : Prop :=
  ∀ (s : State) (i : Instr) (b : Byte), s.link.blocked = false →
    (i, b) ∈ [
      (Instr.loadMdr0, 0xC8#8), (Instr.loadMdr1, 0xD0#8), (Instr.loadDtr, 0xD8#8), (Instr.loadCntr, 0xE0#8),
      (Instr.loadOtr, 0xE8#8), (Instr.loadStr, 0xF0#8)] →
    (∀ r, s.answerAt 0 = .success r →
      exec i s = .next (s.sent .writeBytes [b] .done (.replied (.ok [])))) ∧
    (∀ e, s.answerAt 0 = .failure e →
      exec i s = .next (s.sent .writeBytes [b] (.failed e) (.replied (.err (.transport e)))))

/-- R122, R143, R150: Clear and Load on target None, by either target code: the frame opens with the byte the encoder emits
(decision D5). -/
def Obligations.ClearAndLoadNoneSendTheEmittedHeader : Prop :=
  ∀ (s : State) (i : Instr) (b : Byte), s.link.blocked = false →
    (i, b) ∈ [
      (Instr.clearNone, 0x00#8), (Instr.clearNoneAlias, 0x00#8), (Instr.loadNone, 0xC0#8),
      (Instr.loadNoneAlias, 0xC0#8)] →
    (∀ r, s.answerAt 0 = .success r →
      exec i s = .next (s.sent .writeBytes [b] .done (.replied (.ok [])))) ∧
    (∀ e, s.answerAt 0 = .failure e →
      exec i s = .next (s.sent .writeBytes [b] (.failed e) (.replied (.err (.transport e)))))

/-- R129, R150: Read on target None, by either target code (decision D5). -/
def Obligations.ReadNoneExchangesFiveBytes : Prop :=
  ∀ (s : State) (i : Instr) (b : Byte), s.link.blocked = false →
    (i, b) ∈ [
      (Instr.readNone, 0x40#8), (Instr.readNoneAlias, 0x40#8)] →
    (∀ r, s.answerAt 0 = .success r →
      exec i s = .next (s.sent .transferBytes [b, 0x00#8, 0x00#8, 0x00#8, 0x00#8] (.captured r)
        (.replied (.ok [r.d1, r.d2, r.d3, r.d4])))) ∧
    (∀ e, s.answerAt 0 = .failure e →
      exec i s = .next (s.sent .transferBytes [b, 0x00#8, 0x00#8, 0x00#8, 0x00#8] (.failed e)
        (.replied (.err (.transport e)))))

/-- R136, R150: Write on target None, by either target code (decision D5). -/
def Obligations.WriteNoneSendsHeaderAndPayload : Prop :=
  ∀ (s : State) (i : Instr) (b : Byte) (data : List Byte), s.link.blocked = false → data.length ≤ 4 →
    (i, b) ∈ [
      (Instr.writeNone data, 0x80#8), (Instr.writeNoneAlias data, 0x80#8)] →
    (∀ r, s.answerAt 0 = .success r →
      exec i s = .next (s.sent .writeBytes (b :: data) .done (.replied (.ok [])))) ∧
    (∀ e, s.answerAt 0 = .failure e →
      exec i s = .next (s.sent .writeBytes (b :: data) (.failed e) (.replied (.err (.transport e)))))

/-- R197 (decision D24, log entry 3): when the transport does not return, the instruction has still made its one invocation, which
then holds the interface; every form of every instruction is covered. -/
def Obligations.UnreturnedInvocationHoldsTheInterface : Prop :=
  ∀ (s : State) (i : Instr), s.link.blocked = false → i.wf = true → s.answerAt 0 = .hang →
    exec i s = .next (s.sent (primitiveOf i.action) (frameOf i.header i.payload) .notReturned
      (.waiting ⟨primitiveOf i.action, frameOf i.header i.payload⟩))

/-- R121, R156: a Write whose payload is longer than 4 bytes never reaches the bus: its operation gets PayloadTooBig (log entry
10). -/
def Obligations.OversizedWriteIsNotSent : Prop :=
  ∀ (s : State) (i : Instr) (data : List Byte), s.link.blocked = false → 4 < data.length →
    i ∈ [
      Instr.writeNone data, Instr.writeMdr0 data, Instr.writeMdr1 data, Instr.writeDtr data, Instr.writeCntr data,
      Instr.writeOtr data, Instr.writeStr data, Instr.writeNoneAlias data] →
    exec i s = .next { s with link := .replied (.err .payloadTooBig) }

/-- R120: the frame of every wire instruction: the ports, the in-flight context and what the host has been given are as before;
at most one invocation is made, of the instruction's own frame, taking one answer. -/
def Obligations.ExecChangesOnlyTheTransport : Prop :=
  ∀ (i : Instr) (s t : State), exec i s = .next t →
    t.requests = s.requests ∧ t.codecCalls = s.codecCalls ∧ t.inFlight = s.inFlight ∧ t.responses = s.responses ∧
    t.codecResults = s.codecResults ∧
    ((t.trace = s.trace ∧ t.answers = s.answers ∧ t.draws = s.draws) ∨
      (s.link.blocked = false ∧ i.wf = true ∧
        t.trace = s.trace ++ [⟨⟨primitiveOf i.action, frameOf i.header i.payload⟩,
          busResult (primitiveOf i.action) (s.answerAt 0)⟩] ∧
        t.answers = s.answers.tail ∧ t.draws = s.draws + 1))

/-- R50, R197 (decision D24, log entries 3 and 11): while an invocation has not returned nothing is sent, and the engine waits. -/
def Obligations.BlockedInterfaceSendsNothing : Prop :=
  ∀ (s : State) (inv : Invocation), s.link = .waiting inv →
    (∀ i, exec i s = .next s) ∧ (s.codecCalls = [] → ∀ n, runSteps n s = .next s)

/-- R151: `act` takes any header, `writeRegister` and `readRegister` any target, and the frame is sent as asked; the only check is
on the payload length, never on the register's width or on Str being read-only. That a Read with data of any length is issued is
decision D23 (log entry 17). -/
def Obligations.EveryPairIsIssuedAsAsked : Prop :=
  (∀ (h : InstructionHeader) (data : List Byte) (s : State) (rest : List Request),
    s.Ready (.operation (.act h data)) rest →
    (h.action = .clear ∨ h.action = .load → data = []) → (h.action = .write → data.length ≤ 4) →
    ∃ t res, step s = .next t ∧
      t.trace = s.trace ++ [⟨⟨if h.action = .read then .transferBytes else .writeBytes,
        Header.encode h :: (if h.action = .read then [0x00#8, 0x00#8, 0x00#8, 0x00#8] else data)⟩, res⟩]) ∧
  (∀ (target : RegisterTarget) (data : List Byte) (s : State) (rest : List Request),
    s.Ready (.operation (.writeRegister target data)) rest → data.length ≤ 4 →
    ∃ t res, step s = .next t ∧
      t.trace = s.trace ++ [⟨⟨.writeBytes, Header.encode ⟨target, .write⟩ :: data⟩, res⟩]) ∧
  (∀ (target : RegisterTarget) (s : State) (rest : List Request), s.Ready (.operation (.readRegister target)) rest →
    ∃ t res, step s = .next t ∧
      t.trace = s.trace ++
        [⟨⟨.transferBytes, [Header.encode ⟨target, .read⟩, 0x00#8, 0x00#8, 0x00#8, 0x00#8]⟩, res⟩])

/-- Decoding the words of a well-formed instruction gives it back, with every payload (R57 to R62, R75, R150). -/
def Obligations.DecodeEncodeRoundTrip : Prop :=
  ∀ i : Instr, i.wf = true → decode (encode i) = .ok i

/-- Words written out from section 2 of 30_encoding.md: one or more of each family, with target code 111, and three with bits 2 to
0 set (0x65, 0xBA, 0xFF), which the decoder ignores by decision D6 (log entry 17). -/
def Obligations.WordsDecodeAsTheSpecEncodesThem : Prop :=
  decode [0b00100000#8] = .ok .clearCntr ∧
  decode [0b00110000#8] = .ok .clearStr ∧
  decode [0b01100000#8, 0x00#8, 0x00#8, 0x00#8, 0x00#8] = .ok .readCntr ∧
  decode [0b01100101#8, 0x00#8, 0x00#8, 0x00#8, 0x00#8] = .ok .readCntr ∧
  decode [0b10011000#8, 0x12#8, 0x34#8] = .ok (.writeDtr [0x12#8, 0x34#8]) ∧
  decode [0b10111010#8] = .ok (.writeNoneAlias []) ∧
  decode [0b11011000#8] = .ok .loadDtr ∧
  decode [0b11111111#8] = .ok .loadNoneAlias

/-- Every row of spec/opcode_table.json, with every value of its reserved bits 2 to 0 (R61, decision D6). -/
def Obligations.TableRowsDecode : Prop :=
  ∀ p ∈ [
      (0x00, Instr.clearNone), (0x08, Instr.clearMdr0), (0x10, Instr.clearMdr1), (0x18, Instr.clearDtr),
      (0x20, Instr.clearCntr), (0x28, Instr.clearOtr), (0x30, Instr.clearStr), (0x38, Instr.clearNoneAlias),
      (0x40, Instr.readNone), (0x48, Instr.readMdr0), (0x50, Instr.readMdr1), (0x58, Instr.readDtr),
      (0x60, Instr.readCntr), (0x68, Instr.readOtr), (0x70, Instr.readStr), (0x78, Instr.readNoneAlias),
      (0x80, Instr.writeNone []), (0x88, Instr.writeMdr0 []), (0x90, Instr.writeMdr1 []), (0x98, Instr.writeDtr []),
      (0xA0, Instr.writeCntr []), (0xA8, Instr.writeOtr []), (0xB0, Instr.writeStr []),
      (0xB8, Instr.writeNoneAlias []), (0xC0, Instr.loadNone), (0xC8, Instr.loadMdr0), (0xD0, Instr.loadMdr1),
      (0xD8, Instr.loadDtr), (0xE0, Instr.loadCntr), (0xE8, Instr.loadOtr), (0xF0, Instr.loadStr),
      (0xF8, Instr.loadNoneAlias)],
    ∀ r < 8, decodeTableWord 8 (p.1 + r) = some p.2

/-- R57, R150: an instruction's words are the frame it sends; for target code 111 the frame sent has the header of None. -/
def Obligations.EncodedWordsAreTheFrameSent : Prop :=
  ∀ i : Instr, ∃ b tail, encode i = b :: tail ∧
    frameOf i.header i.payload = (if i.codedAsAlias then b &&& 0xC0#8 else b) :: tail

/-- R76, R81, R155, R156: the decoder rejects nothing but an empty sequence, a Clear or Load with a payload, and a Write with more
than 4 bytes; what it gives is well formed. -/
def Obligations.DecoderRejectsOnlyBySize : Prop :=
  ∀ bytes : List Byte,
    (∃ i, decode bytes = .ok i ∧ i.wf = true) ∨
    (bytes = [] ∧ decode bytes = .err .noHeader) ∨
    (∃ b data h, bytes = b :: data ∧ Header.decode b = .ok h ∧ decode bytes = .err .payloadTooBig ∧
      (((h.action = .clear ∨ h.action = .load) ∧ data ≠ []) ∨ (h.action = .write ∧ 4 < data.length)))

/-- A step runs the decoded instruction (log entries 5 and 8): with an encoded request next, the step is exec of the instruction
its bytes decode to, at the state in which that request is accepted and in flight, followed by what the result means for the
operation. -/
def Obligations.StepRunsDecodedInstruction : Prop :=
  ∀ (s : State) (bytes : List Byte) (rest : List Request) (i : Instr),
    s.Ready (.encoded bytes) rest → decode bytes = .ok i →
    ∃ t, exec i { s with requests := rest, inFlight := some ⟨.wire i, 0, []⟩ } = .next t ∧
      step s = .next (settle ⟨.wire i, 0, []⟩ t)

/-- An encoded request is answered as `act` answers its header (R155 to R157, log entry 5). -/
def Obligations.EncodedRequestIsAnswered : Prop :=
  ∀ (s : State) (bytes : List Byte) (rest : List Request) (i : Instr),
    s.Ready (.encoded bytes) rest → decode bytes = .ok i →
    (∀ r, s.answerAt 0 = .success r →
      step s = .next (s.answered rest
        [⟨⟨primitiveOf i.action, frameOf i.header i.payload⟩, if i.action = .read then .captured r else .done⟩]
        (.ok (.bytes (if i.action = .read then [r.d1, r.d2, r.d3, r.d4] else []))))) ∧
    (∀ e, s.answerAt 0 = .failure e →
      step s = .next (s.answered rest [⟨⟨primitiveOf i.action, frameOf i.header i.payload⟩, .failed e⟩]
        (.err (.transport e))))

/-- The host's table word is taken by the very next step, as the decoder reads it (log entry 5). -/
def Obligations.FetchWordRunsNext : Prop :=
  ∀ (s : State) (nbits w : Nat) (i : Instr), decodeTableWord nbits w = some i →
    (s.withFetchWord nbits w).Ready (.encoded (tableWordBytes nbits w)) s.requests ∧
    ∃ t, exec i { s with codecCalls := [], link := .quiet, inFlight := some ⟨.wire i, 0, []⟩ } = .next t ∧
      step (s.withFetchWord nbits w) = .next (settle ⟨.wire i, 0, []⟩ t)

/-- R153: `writeRegister`: too long a payload is refused with no bus activity; else one write of header and payload. -/
def Obligations.WriteRegisterOperation : Prop :=
  ∀ (s : State) (t : RegisterTarget) (data : List Byte) (rest : List Request),
    s.Ready (.operation (.writeRegister t data)) rest →
    (4 < data.length → step s = .next (s.answered rest [] (.err .payloadTooBig))) ∧
    (data.length ≤ 4 →
      (∀ r, s.answerAt 0 = .success r →
        step s = .next (s.answered rest [⟨⟨.writeBytes, Header.encode ⟨t, .write⟩ :: data⟩, .done⟩] (.ok .unit))) ∧
      (∀ e, s.answerAt 0 = .failure e →
        step s = .next (s.answered rest [⟨⟨.writeBytes, Header.encode ⟨t, .write⟩ :: data⟩, .failed e⟩]
          (.err (.transport e)))))

/-- R154: `readRegister`: one transfer of header and four zeros; the answer is `resp[1..4]`, whatever `resp[0]` is. -/
def Obligations.ReadRegisterOperation : Prop :=
  ∀ (s : State) (t : RegisterTarget) (rest : List Request),
    s.Ready (.operation (.readRegister t)) rest →
    (∀ r, s.answerAt 0 = .success r →
      step s = .next (s.answered rest
        [⟨⟨.transferBytes, [Header.encode ⟨t, .read⟩, 0x00#8, 0x00#8, 0x00#8, 0x00#8]⟩, .captured r⟩]
        (.ok (.bytes [r.d1, r.d2, r.d3, r.d4])))) ∧
    (∀ e, s.answerAt 0 = .failure e →
      step s = .next (s.answered rest
        [⟨⟨.transferBytes, [Header.encode ⟨t, .read⟩, 0x00#8, 0x00#8, 0x00#8, 0x00#8]⟩, .failed e⟩]
        (.err (.transport e))))

/-- R155: `act` with Clear or Load: any payload is refused with no bus activity; else one write of the header byte. -/
def Obligations.ActClearOrLoadOperation : Prop :=
  ∀ (s : State) (h : InstructionHeader) (data : List Byte) (rest : List Request),
    s.Ready (.operation (.act h data)) rest → h.action = .clear ∨ h.action = .load →
    (data.length ≠ 0 → step s = .next (s.answered rest [] (.err .payloadTooBig))) ∧
    (data.length = 0 →
      (∀ r, s.answerAt 0 = .success r →
        step s = .next (s.answered rest [⟨⟨.writeBytes, [Header.encode h]⟩, .done⟩] (.ok (.bytes [])))) ∧
      (∀ e, s.answerAt 0 = .failure e →
        step s = .next (s.answered rest [⟨⟨.writeBytes, [Header.encode h]⟩, .failed e⟩] (.err (.transport e)))))

/-- R156: `act` with Write. -/
def Obligations.ActWriteOperation : Prop :=
  ∀ (s : State) (t : RegisterTarget) (data : List Byte) (rest : List Request),
    s.Ready (.operation (.act ⟨t, .write⟩ data)) rest →
    (4 < data.length → step s = .next (s.answered rest [] (.err .payloadTooBig))) ∧
    (data.length ≤ 4 →
      (∀ r, s.answerAt 0 = .success r →
        step s = .next (s.answered rest [⟨⟨.writeBytes, Header.encode ⟨t, .write⟩ :: data⟩, .done⟩] (.ok (.bytes [])))) ∧
      (∀ e, s.answerAt 0 = .failure e →
        step s = .next (s.answered rest [⟨⟨.writeBytes, Header.encode ⟨t, .write⟩ :: data⟩, .failed e⟩]
          (.err (.transport e)))))

/-- R157: `act` with Read ignores its data, whatever its length (decision D23). -/
def Obligations.ActReadOperation : Prop :=
  ∀ (s : State) (t : RegisterTarget) (data : List Byte) (rest : List Request),
    s.Ready (.operation (.act ⟨t, .read⟩ data)) rest →
    (∀ r, s.answerAt 0 = .success r →
      step s = .next (s.answered rest
        [⟨⟨.transferBytes, [Header.encode ⟨t, .read⟩, 0x00#8, 0x00#8, 0x00#8, 0x00#8]⟩, .captured r⟩]
        (.ok (.bytes [r.d1, r.d2, r.d3, r.d4])))) ∧
    (∀ e, s.answerAt 0 = .failure e →
      step s = .next (s.answered rest
        [⟨⟨.transferBytes, [Header.encode ⟨t, .read⟩, 0x00#8, 0x00#8, 0x00#8, 0x00#8]⟩, .failed e⟩]
        (.err (.transport e))))

/-- R159: `getStatus`: one read of Str; the status is decoded from the last of the 4 bytes. -/
def Obligations.GetStatusOperation : Prop :=
  ∀ (s : State) (rest : List Request), s.Ready (.operation .getStatus) rest →
    (∀ r, s.answerAt 0 = .success r →
      ∃ st, Str.decode r.d4 = .ok st ∧
        step s = .next (s.answered rest
          [⟨⟨.transferBytes, [0x70#8, 0x00#8, 0x00#8, 0x00#8, 0x00#8]⟩, .captured r⟩] (.ok (.status st)))) ∧
    (∀ e, s.answerAt 0 = .failure e →
      step s = .next (s.answered rest
        [⟨⟨.transferBytes, [0x70#8, 0x00#8, 0x00#8, 0x00#8, 0x00#8]⟩, .failed e⟩] (.err (.transport e))))

/-- R160, R190: `getCount`: Cntr is read, then Str; the 4 Cntr bytes are the magnitude (decision D9) and bit 0 of the status byte
the sign (decision D1), whatever the two answers are; a failure of the first read ends the operation with Str not read (decision
D11). -/
def Obligations.GetCountOperation : Prop :=
  ∀ (s : State) (rest : List Request), s.Ready (.operation .getCount) rest →
    (∀ e, s.answerAt 0 = .failure e →
      step s = .next (s.answered rest
        [⟨⟨.transferBytes, [0x60#8, 0x00#8, 0x00#8, 0x00#8, 0x00#8]⟩, .failed e⟩] (.err (.transport e)))) ∧
    (∀ m e, s.answerAt 0 = .success m → s.answerAt 1 = .failure e →
      runSteps 2 s = .next (s.answered rest
        [⟨⟨.transferBytes, [0x60#8, 0x00#8, 0x00#8, 0x00#8, 0x00#8]⟩, .captured m⟩,
         ⟨⟨.transferBytes, [0x70#8, 0x00#8, 0x00#8, 0x00#8, 0x00#8]⟩, .failed e⟩] (.err (.transport e)))) ∧
    (∀ m r, s.answerAt 0 = .success m → s.answerAt 1 = .success r →
      ∃ c : SignedCount,
        c.toInt = (if r.d4.getLsbD 0 then -1 else 1) *
          ((m.d1.toNat * 2 ^ 24 + m.d2.toNat * 2 ^ 16 + m.d3.toNat * 2 ^ 8 + m.d4.toNat : Nat) : Int) ∧
        runSteps 2 s = .next (s.answered rest
          [⟨⟨.transferBytes, [0x60#8, 0x00#8, 0x00#8, 0x00#8, 0x00#8]⟩, .captured m⟩,
           ⟨⟨.transferBytes, [0x70#8, 0x00#8, 0x00#8, 0x00#8, 0x00#8]⟩, .captured r⟩] (.ok (.count c))))

/-- R161, R162, R188: `initializeDefaults`: four writes in order (0x03 rests on decision D8); a failure at one of them ends the
operation there with that error, and the later ones are never sent. -/
def Obligations.InitializeDefaultsOperation : Prop :=
  ∀ (s : State) (rest : List Request), s.Ready (.operation .initializeDefaults) rest →
    ∀ frames : List (List Byte),
      frames = [[0x88#8, 0x03#8], [0x90#8, 0x00#8], [0x98#8, 0x00#8, 0x00#8, 0x00#8, 0x00#8], [0xE0#8]] →
    ((∀ k < 4, ∃ r, s.answerAt k = .success r) →
      runSteps 4 s =
        .next (s.answered rest (frames.map fun f => ⟨⟨.writeBytes, f⟩, .done⟩) (.ok .unit))) ∧
    (∀ k < 4, ∀ e, (∀ j < k, ∃ r, s.answerAt j = .success r) → s.answerAt k = .failure e →
      runSteps (k + 1) s =
        .next (s.answered rest
          ((frames.take k).map (fun f => ⟨⟨.writeBytes, f⟩, .done⟩) ++ [⟨⟨.writeBytes, frames.getD k []⟩, .failed e⟩])
          (.err (.transport e))))

/-- R153 to R163: running an operation step by step gives exactly the invocations and the response of the pseudocode transcribed
in Machine/Reference.lean, in at most 4 steps. Where the pseudocode never returns (R197), the machine ends waiting, in the form of
log entry 3; that a step is one wire instruction is log entry 8. -/
def Obligations.StepsRefinePseudocode : Prop :=
  ∀ (s : State) (o : Operation) (rest : List Request), s.Ready (.operation o) rest →
    (∀ r, (Reference.run o fun k => s.answerAt k).response = some r →
      ∃ n, 1 ≤ n ∧ n ≤ 4 ∧ runSteps n s =
        .next (s.answered rest (Reference.run o fun k => s.answerAt k).events r)) ∧
    ((Reference.run o fun k => s.answerAt k).response = none →
      ∃ n t, 1 ≤ n ∧ n ≤ 4 ∧ runSteps n s = .next t ∧
        t.trace = s.trace ++ (Reference.run o fun k => s.answerAt k).events ∧ t.responses = s.responses ∧
        t.requests = rest ∧ t.inFlight ≠ none ∧ t.link.blocked = true ∧ step t = .next t)

/-- R35, R183, R184, R185 (decision D16): after reset the block is idle, nothing is in flight, the interface is quiet, nothing has
been sent, and any operation may be first; there and in every idle state with nothing asked, as after any response (R176), it
waits for the host. -/
def Obligations.ResetIsIdleAndSilent : Prop :=
  State.reset.inFlight = none ∧ State.reset.link = .quiet ∧ State.reset.requests = [] ∧ State.reset.codecCalls = [] ∧
  State.reset.trace = [] ∧ State.reset.responses = [] ∧ step State.reset = .next State.reset ∧
  (∀ s : State, s.Free → s.inFlight = none → s.requests = [] → step s = .next s) ∧
  ∀ o, (State.reset.present (.operation o)).Ready (.operation o) []

/-- The invariant holds after reset. -/
def Obligations.ResetSatisfiesInvariant : Prop := State.reset.Inv

/-- Every step keeps the invariant: only legal frames have been sent (R40, R41, R61), the in-flight context is at a step of its
operation (R33), the interface is quiet or held by that step's invocation (R197), and no response or codec value is a decode
failure (R81, R170). So do the inputs between steps: a request, a codec call, an answer lined up (R6, R53). -/
def Obligations.StepsAndInputsKeepInvariant : Prop :=
  ∀ s : State, s.Inv →
    (∀ t, step s = .next t → t.Inv) ∧
    (∀ r, (s.present r).Inv) ∧ (∀ c, (s.callCodec c).Inv) ∧ (∀ a, (s.supply a).Inv)

/-- R167: in every state of the invariant a step answers a next state, but for the two inputs that are no instruction and no
argument: an empty encoded request, and a byte sequence of more than 4 bytes. No step faults. -/
def Obligations.StepStopsOnlyOnMalformedInput : Prop :=
  ∀ s : State, s.Inv →
    (∃ t, step s = .next t) ∨
    (step s = .refused .emptyFrame ∧ ∃ rest, s.Ready (.encoded []) rest) ∨
    (step s = .refused .sequenceTooLong ∧ ∃ c rest, s.codecCalls = c :: rest ∧ evalCodec c = none)

/-- R170, R81: no step of any state gives a `Decode` error. -/
def Obligations.DecodeErrorIsNeverGiven : Prop :=
  ∀ (s t : State) (f : DecodeFailure), step s = .next t → .err (.decode f) ∈ t.responses →
    .err (.decode f) ∈ s.responses

/-- R47, R50 (a) to (e): a step makes at most one invocation and gives at most one response, after what was there before; a
response given means no invocation is pending. -/
def Obligations.StepAppendsInOrder : Prop :=
  ∀ s t : State, step s = .next t →
    (∃ es, t.trace = s.trace ++ es ∧ es.length ≤ 1) ∧
    (∃ rs, t.responses = s.responses ++ rs ∧ rs.length ≤ 1 ∧ (rs ≠ [] → t.inFlight = none ∧ t.link = .quiet))

/-- R165 (decision D12, log entries 4 and 5): while an operation is in flight no request is accepted, and it stays in flight until
its one response; when idle, at most the oldest request is taken, and it is then in flight or has its one response. -/
def Obligations.OneOperationAtATime : Prop :=
  ∀ s t : State, step s = .next t →
    (∀ c, s.inFlight = some c → t.requests = s.requests ∧
      ((∃ c', t.inFlight = some c' ∧ c'.job = c.job ∧ t.responses = s.responses) ∨
        (t.inFlight = none ∧ ∃ resp, t.responses = s.responses ++ [resp]))) ∧
    (t.requests = s.requests ∨
      ∃ r, s.requests = r :: t.requests ∧
        ((∃ c, t.inFlight = some c ∧ Request.job r = some c.job ∧ t.responses = s.responses) ∨
          (t.inFlight = none ∧ ∃ resp, t.responses = s.responses ++ [resp])))

/-- R164: what a step does depends on nothing that earlier operations left: a longer past changes neither the outcome nor what is
added to the trace and the responses. -/
def Obligations.StepIgnoresThePast : Prop :=
  ∀ (s : State) (tr : List Event) (rs : List Response) (vs : List CodecValue),
    step (s.withPast tr rs vs) = mapNext (fun t => t.withPast tr rs vs) (step s)

/-- R53 (decision D19): whether the machine has a step never depends on the transport's answers. -/
def Obligations.StepExistsWhateverTheAnswers : Prop :=
  ∀ (s : State) (as : List Answer) (d : Nat), isNext (step { s with answers := as, draws := d }) = isNext (step s)

/-- R197 (decision D24, log entry 3): an invocation that never returns leaves its operation in flight for ever, with no response. -/
def Obligations.HangKeepsTheOperationInFlight : Prop :=
  ∀ (s : State) (c : Context) (i : Instr), s.Free → s.inFlight = some c → Context.current c = some i → i.wf = true →
    s.answerAt 0 = .hang →
    ∃ t, step s = .next t ∧ t.inFlight = some c ∧ t.link = .waiting (invocationOf i.header i.payload) ∧
      t.responses = s.responses ∧ ∀ n, runSteps n t = .next t

/-- R8, R197: under the premise that the next four invocations return, every request but the empty sequence is answered within 4 steps, and
every operation in flight within the steps it has left. -/
def Obligations.EveryOperationEndsIfTransportReturns : Prop :=
  ∀ s : State, s.Inv → s.Free → s.TransportReturns 4 →
    (∀ r rest, s.inFlight = none → s.requests = r :: rest → r ≠ .encoded [] →
      ∃ n t resp, 1 ≤ n ∧ n ≤ 4 ∧ runSteps n s = .next t ∧
        t.responses = s.responses ++ [resp] ∧ t.requests = rest ∧ t.inFlight = none ∧ t.link = .quiet) ∧
    (∀ c, s.inFlight = some c →
      ∃ n t resp, 1 ≤ n ∧ n ≤ (Job.program c.job).length - c.index ∧ runSteps n s = .next t ∧
        t.responses = s.responses ++ [resp] ∧ t.requests = s.requests ∧ t.inFlight = none ∧ t.link = .quiet)

/-- R54, R169, R173, R175: when the invocation of the current step fails, the operation ends with the transport's own error;
exactly that invocation was made, there is no retry, and the block is idle. -/
def Obligations.TransportErrorEndsTheOperation : Prop :=
  ∀ (s : State) (c : Context) (i : Instr) (e : TransportError), s.Free → s.inFlight = some c →
    Context.current c = some i → i.wf = true → s.answerAt 0 = .failure e →
    step s = .next (s.answered s.requests [⟨⟨primitiveOf i.action, frameOf i.header i.payload⟩, .failed e⟩]
      (.err (.transport e)))

/-- R168, R173: the operations that can be too big, and that they are answered before any bus activity, the state otherwise as it
was; the encoded requests that are too big by their header and length, and that they are answered alike (log entry 5). -/
def Obligations.PayloadTooBigBeforeAnyBusActivity : Prop :=
  (∀ (s : State) (o : Operation) (rest : List Request), s.Ready (.operation o) rest →
    ((∃ t data, o = .writeRegister t data ∧ 4 < data.length) ∨
      (∃ h data, o = .act h data ∧ ((h.action = .write ∧ 4 < data.length) ∨
        ((h.action = .clear ∨ h.action = .load) ∧ data ≠ [])))) →
    step s = .next { s with requests := rest, link := .quiet, responses := s.responses ++ [.err .payloadTooBig] }) ∧
  (∀ (b : Byte) (data : List Byte) (h : InstructionHeader), Header.decode b = .ok h →
    ((h.action = .write ∧ 4 < data.length) ∨ ((h.action = .clear ∨ h.action = .load) ∧ data ≠ [])) →
    decode (b :: data) = .err .payloadTooBig) ∧
  (∀ (s : State) (bytes : List Byte) (rest : List Request), s.Ready (.encoded bytes) rest →
    decode bytes = .err .payloadTooBig →
    step s = .next { s with requests := rest, link := .quiet, responses := s.responses ++ [.err .payloadTooBig] })

/-- R174: an error goes to the host and nowhere else: the operation stops, nothing is saved in the block, and it is idle. -/
def Obligations.ErrorsLeaveNothingBehind : Prop :=
  ∀ (s t : State) (e : DriverError), step s = .next t → t.responses = s.responses ++ [.err e] →
    t.inFlight = none ∧ t.link = .quiet ∧ t.codecCalls = s.codecCalls ∧ t.codecResults = s.codecResults

/-- R16, R33: after a step that succeeded and is not the last, the index has advanced by one and the captured bytes are kept; the
block holds nothing else of it. -/
def Obligations.SuccessAdvancesTheStepIndex : Prop :=
  ∀ (s : State) (c : Context) (i : Instr) (r : ReadResponse), s.Free → s.inFlight = some c →
    Context.current c = some i → i.wf = true → c.index + 1 < (Job.program c.job).length → s.answerAt 0 = .success r →
    ∃ t, step s = .next t ∧
      t.inFlight = some ⟨c.job, c.index + 1,
        c.captured ++ (if i.action = .read then [r.d1, r.d2, r.d3, r.d4] else [])⟩ ∧
      t.link = .quiet ∧ t.requests = s.requests ∧ t.responses = s.responses
end

