-- ==== Sys2Proof/Laws/Decode.lean ====
section
/-! SUPPORT. Laws/Decode.lean: what the header of an instruction, the instruction of a header and the decoder answer. -/

namespace Sys2Proof

@[simp] theorem ofHeader_header (h : InstructionHeader) (data : List Byte) : (Instr.ofHeader h data).header = h := by
  obtain ⟨t, a⟩ := h
  cases t <;> cases a <;> rfl

@[simp] theorem ofHeader_action (h : InstructionHeader) (data : List Byte) :
    (Instr.ofHeader h data).action = h.action := congrArg InstructionHeader.action (ofHeader_header h data)

@[simp] theorem ofAliasCode_header (a : RegisterAction) (data : List Byte) :
    (Instr.ofAliasCode a data).header = { target := .none, action := a } := by
  cases a <;> rfl

/-- Only a Write keeps the payload. -/
theorem ofHeader_payload (h : InstructionHeader) (data : List Byte) :
    (Instr.ofHeader h data).payload = if h.action = .write then data else [] := by
  obtain ⟨t, a⟩ := h
  cases t <;> cases a <;> rfl

theorem ofAliasCode_payload (a : RegisterAction) (data : List Byte) :
    (Instr.ofAliasCode a data).payload = if a = .write then data else [] := by
  cases a <;> rfl

/-- An instruction is well formed when its payload meets its action's size contract. -/
theorem wf_eq_payloadFits (i : Instr) : i.wf = payloadFits i.action i.payload := by
  cases i <;> rfl

/-- A payload that fits still fits once the instruction has dropped what it does not keep. -/
theorem payloadFits_kept {a : RegisterAction} {data : List Byte} (h : payloadFits a data = true) :
    payloadFits a (if a = .write then data else []) = true := by
  cases a <;> simp_all [payloadFits]

theorem ofHeader_wf {h : InstructionHeader} {data : List Byte} (hf : payloadFits h.action data = true) :
    (Instr.ofHeader h data).wf = true := by
  rw [wf_eq_payloadFits, ofHeader_action, ofHeader_payload]
  exact payloadFits_kept hf

/-- What the decoder answers on a non-empty sequence, by its header and payload. -/
theorem decode_ok {bytes : List Byte} {i : Instr} (h : decode bytes = .ok i) :
    ∃ b data hd, bytes = b :: data ∧ Header.decode b = .ok hd ∧ payloadFits hd.action data = true ∧
      ((extract b 5 3 = 0b111#3 ∧ i = Instr.ofAliasCode hd.action data) ∨
        (extract b 5 3 ≠ 0b111#3 ∧ i = Instr.ofHeader hd data)) := by
  unfold decode at h
  split at h
  · cases h
  · rename_i b data
    split at h
    · cases h
    · rename_i hd hh
      split at h
      · rename_i hf
        split at h <;> rename_i hc <;> injection h with h
        · exact ⟨b, data, hd, rfl, hh, hf, .inl ⟨hc, h.symm⟩⟩
        · exact ⟨b, data, hd, rfl, hh, hf, .inr ⟨hc, h.symm⟩⟩
      · cases h

/-- The decoder gives well-formed instructions only. -/
theorem wf_of_decode {bytes : List Byte} {i : Instr} (h : decode bytes = .ok i) : i.wf = true := by
  obtain ⟨b, data, hd, -, -, hf, ⟨-, rfl⟩ | ⟨-, rfl⟩⟩ := decode_ok h
  · rw [wf_eq_payloadFits, show (Instr.ofAliasCode hd.action data).action = hd.action from
      congrArg InstructionHeader.action (ofAliasCode_header hd.action data), ofAliasCode_payload]
    exact payloadFits_kept hf
  · exact ofHeader_wf hf

/-- No byte fails to decode as a header, so no frame is rejected for a field code. -/
theorem decode_ne_field (bytes : List Byte) (f : DecodeFailure) : decode bytes ≠ .err (.field f) := by
  have htot : ∀ b : Byte, ∀ f : DecodeFailure, Header.decode b ≠ .err f := by
    intro b f; cases f; revert b; decide
  unfold decode
  split
  · simp
  · split
    · rename_i hg; exact absurd hg (htot _ _)
    · split
      · split <;> simp
      · simp

end Sys2Proof
end

