-- ==== Sys2Proof/Laws/Integers.lean ====
section
/-! SUPPORT. Laws/Integers.lean: one step of the big-endian fold, and its bound (R114). -/

namespace Sys2Proof

/-- Shifting in a byte is multiplying by 256 and adding it. -/
theorem shift_or_byte (acc : Nat) (b : Byte) : (acc <<< 8) ||| b.toNat = acc * 256 + b.toNat := by
  rw [← Nat.shiftLeft_add_eq_or_of_lt b.isLt, Nat.shiftLeft_eq]

@[simp] theorem foldBigEndian_nil (acc : Nat) : foldBigEndian acc [] = acc := rfl

@[simp] theorem foldBigEndian_cons (acc : Nat) (b : Byte) (rest : List Byte) :
    foldBigEndian acc (b :: rest) = foldBigEndian (acc * 256 + b.toNat) rest := by
  rw [foldBigEndian, shift_or_byte]

/-- What is already accumulated ends up above the bytes still to come. -/
theorem foldBigEndian_acc (s : List Byte) : ∀ acc, foldBigEndian acc s = acc * 256 ^ s.length + foldBigEndian 0 s := by
  induction s with
  | nil => intro acc; simp
  | cons b rest ih =>
    intro acc
    rw [foldBigEndian_cons, foldBigEndian_cons, ih, ih (0 * 256 + b.toNat), List.length_cons, pow_succ]
    ring

theorem foldBigEndian_lt (s : List Byte) : foldBigEndian 0 s < 256 ^ s.length := by
  induction s with
  | nil => simp
  | cons b rest ih =>
    rw [foldBigEndian_cons, foldBigEndian_acc, List.length_cons, pow_succ]
    have hb : b.toNat ≤ 255 := by have := b.isLt; omega
    have : (0 * 256 + b.toNat) * 256 ^ rest.length ≤ 255 * 256 ^ rest.length :=
      Nat.mul_le_mul_right _ (by simpa using hb)
    omega

end Sys2Proof
end

