-- ==== Sys2Proof/Laws/State.lean ====
section
/-! SUPPORT. Laws/State.lean: what each update does to each field, one lemma a pair. -/

namespace Sys2Proof.Machine

open Sys2Proof

variable (s : State)

@[simp] theorem State.present_requests (r : Request) : (s.present r).requests = s.requests ++ [r] := rfl
@[simp] theorem State.present_codecCalls (r : Request) : (s.present r).codecCalls = s.codecCalls := rfl
@[simp] theorem State.present_inFlight (r : Request) : (s.present r).inFlight = s.inFlight := rfl
@[simp] theorem State.present_link (r : Request) : (s.present r).link = s.link := rfl
@[simp] theorem State.present_answers (r : Request) : (s.present r).answers = s.answers := rfl
@[simp] theorem State.present_draws (r : Request) : (s.present r).draws = s.draws := rfl
@[simp] theorem State.present_trace (r : Request) : (s.present r).trace = s.trace := rfl
@[simp] theorem State.present_responses (r : Request) : (s.present r).responses = s.responses := rfl
@[simp] theorem State.present_codecResults (r : Request) : (s.present r).codecResults = s.codecResults := rfl

@[simp] theorem State.callCodec_requests (c : CodecCall) : (s.callCodec c).requests = s.requests := rfl
@[simp] theorem State.callCodec_codecCalls (c : CodecCall) : (s.callCodec c).codecCalls = s.codecCalls ++ [c] := rfl
@[simp] theorem State.callCodec_inFlight (c : CodecCall) : (s.callCodec c).inFlight = s.inFlight := rfl
@[simp] theorem State.callCodec_link (c : CodecCall) : (s.callCodec c).link = s.link := rfl
@[simp] theorem State.callCodec_answers (c : CodecCall) : (s.callCodec c).answers = s.answers := rfl
@[simp] theorem State.callCodec_draws (c : CodecCall) : (s.callCodec c).draws = s.draws := rfl
@[simp] theorem State.callCodec_trace (c : CodecCall) : (s.callCodec c).trace = s.trace := rfl
@[simp] theorem State.callCodec_responses (c : CodecCall) : (s.callCodec c).responses = s.responses := rfl
@[simp] theorem State.callCodec_codecResults (c : CodecCall) : (s.callCodec c).codecResults = s.codecResults := rfl

@[simp] theorem State.supply_requests (a : Answer) : (s.supply a).requests = s.requests := rfl
@[simp] theorem State.supply_codecCalls (a : Answer) : (s.supply a).codecCalls = s.codecCalls := rfl
@[simp] theorem State.supply_inFlight (a : Answer) : (s.supply a).inFlight = s.inFlight := rfl
@[simp] theorem State.supply_link (a : Answer) : (s.supply a).link = s.link := rfl
@[simp] theorem State.supply_answers (a : Answer) : (s.supply a).answers = s.answers ++ [a] := rfl
@[simp] theorem State.supply_draws (a : Answer) : (s.supply a).draws = s.draws := rfl
@[simp] theorem State.supply_trace (a : Answer) : (s.supply a).trace = s.trace := rfl
@[simp] theorem State.supply_responses (a : Answer) : (s.supply a).responses = s.responses := rfl
@[simp] theorem State.supply_codecResults (a : Answer) : (s.supply a).codecResults = s.codecResults := rfl

@[simp] theorem State.setRequests_requests (rs : List Request) : (s.setRequests rs).requests = rs := rfl
@[simp] theorem State.setRequests_codecCalls (rs : List Request) : (s.setRequests rs).codecCalls = s.codecCalls := rfl
@[simp] theorem State.setRequests_inFlight (rs : List Request) : (s.setRequests rs).inFlight = s.inFlight := rfl
@[simp] theorem State.setRequests_link (rs : List Request) : (s.setRequests rs).link = s.link := rfl
@[simp] theorem State.setRequests_answers (rs : List Request) : (s.setRequests rs).answers = s.answers := rfl
@[simp] theorem State.setRequests_draws (rs : List Request) : (s.setRequests rs).draws = s.draws := rfl
@[simp] theorem State.setRequests_trace (rs : List Request) : (s.setRequests rs).trace = s.trace := rfl
@[simp] theorem State.setRequests_responses (rs : List Request) : (s.setRequests rs).responses = s.responses := rfl
@[simp] theorem State.setRequests_codecResults (rs : List Request) : (s.setRequests rs).codecResults = s.codecResults := rfl

@[simp] theorem State.setContext_requests (c : Option Context) : (s.setContext c).requests = s.requests := rfl
@[simp] theorem State.setContext_codecCalls (c : Option Context) : (s.setContext c).codecCalls = s.codecCalls := rfl
@[simp] theorem State.setContext_inFlight (c : Option Context) : (s.setContext c).inFlight = c := rfl
@[simp] theorem State.setContext_link (c : Option Context) : (s.setContext c).link = s.link := rfl
@[simp] theorem State.setContext_answers (c : Option Context) : (s.setContext c).answers = s.answers := rfl
@[simp] theorem State.setContext_draws (c : Option Context) : (s.setContext c).draws = s.draws := rfl
@[simp] theorem State.setContext_trace (c : Option Context) : (s.setContext c).trace = s.trace := rfl
@[simp] theorem State.setContext_responses (c : Option Context) : (s.setContext c).responses = s.responses := rfl
@[simp] theorem State.setContext_codecResults (c : Option Context) : (s.setContext c).codecResults = s.codecResults := rfl

@[simp] theorem State.setLink_requests (l : Link) : (s.setLink l).requests = s.requests := rfl
@[simp] theorem State.setLink_codecCalls (l : Link) : (s.setLink l).codecCalls = s.codecCalls := rfl
@[simp] theorem State.setLink_inFlight (l : Link) : (s.setLink l).inFlight = s.inFlight := rfl
@[simp] theorem State.setLink_link (l : Link) : (s.setLink l).link = l := rfl
@[simp] theorem State.setLink_answers (l : Link) : (s.setLink l).answers = s.answers := rfl
@[simp] theorem State.setLink_draws (l : Link) : (s.setLink l).draws = s.draws := rfl
@[simp] theorem State.setLink_trace (l : Link) : (s.setLink l).trace = s.trace := rfl
@[simp] theorem State.setLink_responses (l : Link) : (s.setLink l).responses = s.responses := rfl
@[simp] theorem State.setLink_codecResults (l : Link) : (s.setLink l).codecResults = s.codecResults := rfl

@[simp] theorem respond_requests (r : Response) : (respond r s).requests = s.requests := rfl
@[simp] theorem respond_codecCalls (r : Response) : (respond r s).codecCalls = s.codecCalls := rfl
@[simp] theorem respond_inFlight (r : Response) : (respond r s).inFlight = none := rfl
@[simp] theorem respond_link (r : Response) : (respond r s).link = .quiet := rfl
@[simp] theorem respond_answers (r : Response) : (respond r s).answers = s.answers := rfl
@[simp] theorem respond_draws (r : Response) : (respond r s).draws = s.draws := rfl
@[simp] theorem respond_trace (r : Response) : (respond r s).trace = s.trace := rfl
@[simp] theorem respond_responses (r : Response) : (respond r s).responses = s.responses ++ [r] := rfl
@[simp] theorem respond_codecResults (r : Response) : (respond r s).codecResults = s.codecResults := rfl

@[simp] theorem invoke_requests (inv : Invocation) : (invoke inv s).requests = s.requests := rfl
@[simp] theorem invoke_codecCalls (inv : Invocation) : (invoke inv s).codecCalls = s.codecCalls := rfl
@[simp] theorem invoke_inFlight (inv : Invocation) : (invoke inv s).inFlight = s.inFlight := rfl
@[simp] theorem invoke_link (inv : Invocation) : (invoke inv s).link = linkAfter inv (s.answerAt 0) := rfl
@[simp] theorem invoke_answers (inv : Invocation) : (invoke inv s).answers = s.answers.tail := rfl
@[simp] theorem invoke_draws (inv : Invocation) : (invoke inv s).draws = s.draws + 1 := rfl
@[simp] theorem invoke_trace (inv : Invocation) : (invoke inv s).trace = s.trace ++ [{ invocation := inv, result := busResult inv.primitive (s.answerAt 0) }] := rfl
@[simp] theorem invoke_responses (inv : Invocation) : (invoke inv s).responses = s.responses := rfl
@[simp] theorem invoke_codecResults (inv : Invocation) : (invoke inv s).codecResults = s.codecResults := rfl

@[simp] theorem State.withPast_requests (tr : List Event) (rs : List Response) (vs : List CodecValue) : (s.withPast tr rs vs).requests = s.requests := rfl
@[simp] theorem State.withPast_codecCalls (tr : List Event) (rs : List Response) (vs : List CodecValue) : (s.withPast tr rs vs).codecCalls = s.codecCalls := rfl
@[simp] theorem State.withPast_inFlight (tr : List Event) (rs : List Response) (vs : List CodecValue) : (s.withPast tr rs vs).inFlight = s.inFlight := rfl
@[simp] theorem State.withPast_link (tr : List Event) (rs : List Response) (vs : List CodecValue) : (s.withPast tr rs vs).link = s.link := rfl
@[simp] theorem State.withPast_answers (tr : List Event) (rs : List Response) (vs : List CodecValue) : (s.withPast tr rs vs).answers = s.answers := rfl
@[simp] theorem State.withPast_draws (tr : List Event) (rs : List Response) (vs : List CodecValue) : (s.withPast tr rs vs).draws = s.draws := rfl
@[simp] theorem State.withPast_trace (tr : List Event) (rs : List Response) (vs : List CodecValue) : (s.withPast tr rs vs).trace = tr ++ s.trace := rfl
@[simp] theorem State.withPast_responses (tr : List Event) (rs : List Response) (vs : List CodecValue) : (s.withPast tr rs vs).responses = rs ++ s.responses := rfl
@[simp] theorem State.withPast_codecResults (tr : List Event) (rs : List Response) (vs : List CodecValue) : (s.withPast tr rs vs).codecResults = vs ++ s.codecResults := rfl

end Sys2Proof.Machine
end

