-- ==== Sys2Proof/Laws/Ops.lean ====
section
/-! SUPPORT. Laws/Ops.lean: what the shared operations can do, said once each: the answer stream, issuing a wire instruction, a wire
instruction's meaning, settling its result, and one codec call. -/

namespace Sys2Proof.Machine

open Sys2Proof

/-- After an invocation the stream of answers has moved on by one. -/
@[simp] theorem answerAt_invoke (inv : Invocation) (k : Nat) (s : State) :
    (invoke inv s).answerAt k = s.answerAt (k + 1) := by
  unfold State.answerAt invoke
  cases h : s.answers with
  | nil => simp [Nat.add_comm, Nat.add_left_comm]
  | cons a as => simp [Nat.add_comm, Nat.add_left_comm]

@[simp] theorem answerAt_setContext (c : Option Context) (k : Nat) (s : State) :
    (s.setContext c).answerAt k = s.answerAt k := rfl

@[simp] theorem answerAt_setLink (l : Link) (k : Nat) (s : State) :
    (s.setLink l).answerAt k = s.answerAt k := rfl

@[simp] theorem answerAt_setRequests (rs : List Request) (k : Nat) (s : State) :
    (s.setRequests rs).answerAt k = s.answerAt k := rfl

/-- The first answer lined up is the next one drawn. -/
theorem answerAt_zero_of_cons {s : State} {a : Answer} {as : List Answer} (h : s.answers = a :: as) :
    s.answerAt 0 = a := by
  simp [State.answerAt, h]

theorem issue_blocked {s : State} (hb : s.link.blocked = true) (h : InstructionHeader) (data : List Byte) :
    issue h data s = .next s := by simp [issue, hb]

theorem issue_fits {s : State} {h : InstructionHeader} {data : List Byte} (hb : s.link.blocked = false)
    (hf : payloadFits h.action data = true) : issue h data s = .next (invoke (invocationOf h data) s) := by
  simp [issue, hb, hf]

theorem issue_tooBig {s : State} {h : InstructionHeader} {data : List Byte} (hb : s.link.blocked = false)
    (hf : payloadFits h.action data = false) :
    issue h data s = .next (s.setLink (.replied (.err .payloadTooBig))) := by
  simp [issue, hb, hf]

/-- Everything issuing can do: nothing (blocked), one invocation, or the payload error with no invocation. -/
theorem issue_cases {h : InstructionHeader} {data : List Byte} {s t : State} (ht : issue h data s = .next t) :
    (s.link.blocked = true ∧ t = s) ∨
      (s.link.blocked = false ∧ payloadFits h.action data = true ∧ t = invoke (invocationOf h data) s) ∨
      (s.link.blocked = false ∧ payloadFits h.action data = false ∧
        t = s.setLink (.replied (.err .payloadTooBig))) := by
  cases hb : s.link.blocked with
  | true => rw [issue_blocked hb] at ht; injection ht with ht; exact .inl ⟨rfl, ht.symm⟩
  | false =>
    cases hf : payloadFits h.action data with
    | true => rw [issue_fits hb hf] at ht; injection ht with ht; exact .inr (.inl ⟨rfl, rfl, ht.symm⟩)
    | false => rw [issue_tooBig hb hf] at ht; injection ht with ht; exact .inr (.inr ⟨rfl, rfl, ht.symm⟩)

/-- Every meaning is the issue of its (target, action) pair and payload (R120, R150). -/
theorem exec_eq_issue (i : Instr) (s : State) : exec i s = issue i.header i.payload s := by
  cases i <;> rfl

/-- Issuing answers a next state whatever the state and the answer. -/
theorem issue_next (h : InstructionHeader) (data : List Byte) (s : State) : ∃ t, issue h data s = .next t := by
  unfold issue
  split
  · exact ⟨_, rfl⟩
  · split <;> exact ⟨_, rfl⟩

theorem settle_ok {c : Context} {s : State} {bytes : List Byte} (h : s.link = .replied (.ok bytes)) :
    settle c s = advance c bytes s := by simp [settle, h]

theorem settle_err {c : Context} {s : State} {e : DriverError} (h : s.link = .replied (.err e)) :
    settle c s = respond (.err e) s := by simp [settle, h]

theorem settle_waiting {c : Context} {s : State} {inv : Invocation} (h : s.link = .waiting inv) :
    settle c s = s := by simp [settle, h]

/-- A step of the operation in flight is its current instruction's meaning, settled. -/
theorem runCurrent_eq {c : Context} {i : Instr} (hc : Context.current c = some i) (s : State) :
    ∃ t, exec i (s.setContext (some c)) = .next t ∧ runCurrent c s = .next (settle c t) := by
  obtain ⟨t, ht⟩ := issue_next i.header i.payload (s.setContext (some c))
  have he : exec i (s.setContext (some c)) = .next t := by rw [exec_eq_issue]; exact ht
  exact ⟨t, he, by simp [runCurrent, hc, he]⟩

/-- A codec call that is answered changes the codec port alone. -/
theorem serveCodec_next {c : CodecCall} {rest : List CodecCall} {s t : State} (h : serveCodec c rest s = .next t) :
    ∃ v, evalCodec c = some v ∧ t = { s with codecCalls := rest, codecResults := s.codecResults ++ [v] } := by
  unfold serveCodec at h
  cases hv : evalCodec c with
  | none => simp [hv] at h
  | some v => simp [hv] at h; exact ⟨v, rfl, h.symm⟩

end Sys2Proof.Machine
end

