-- ==== Sys2Proof/Laws/PerInstr.lean ====
section
/-! SUPPORT. Laws/PerInstr.lean: statements about every instruction as syntax, one lemma per constructor. -/

namespace Sys2Proof.Laws.EncodedHeader

open Sys2Proof

/-- The first byte of an instruction's words is a header byte with bits 2 to 0 zero that decodes to its (target, action) pair
(R57, R58, R75, R150). -/
def Statement (i : Instr) : Prop :=
  ∃ b tail, encode i = b :: tail ∧ b &&& 0x07#8 = 0x00#8 ∧ Header.decode b = .ok i.header

/-- A Write's words, once its action and target code are known. -/
theorem encode_write {i : Instr} {data : List Byte} {b : Byte} (c : BitVec 3) (ha : i.action = .write)
    (hc : i.targetCode = c) (hp : i.payload = data) (hb : place (Action.encode .write) 6 ||| place c 3 = b) :
    encode i = b :: data := by
  rw [encode, Instr.operandBytes, ha, hc, hp, hb]

/-- The witness is the byte of the opcode map (R75). -/
theorem of_byte {i : Instr} (b : Byte) (tail : List Byte) (h : encode i = b :: tail) (hz : b &&& 0x07#8 = 0x00#8)
    (hd : Header.decode b = .ok i.header) : Statement i := ⟨b, tail, h, hz, hd⟩

theorem clearNone : Statement .clearNone := of_byte 0x00#8 [] rfl (by decide) (by rfl)
theorem clearMdr0 : Statement .clearMdr0 := of_byte 0x08#8 [] rfl (by decide) (by rfl)
theorem clearMdr1 : Statement .clearMdr1 := of_byte 0x10#8 [] rfl (by decide) (by rfl)
theorem clearDtr : Statement .clearDtr := of_byte 0x18#8 [] rfl (by decide) (by rfl)
theorem clearCntr : Statement .clearCntr := of_byte 0x20#8 [] rfl (by decide) (by rfl)
theorem clearOtr : Statement .clearOtr := of_byte 0x28#8 [] rfl (by decide) (by rfl)
theorem clearStr : Statement .clearStr := of_byte 0x30#8 [] rfl (by decide) (by rfl)
theorem clearNoneAlias : Statement .clearNoneAlias := of_byte 0x38#8 [] rfl (by decide) (by rfl)
theorem readNone : Statement .readNone := of_byte 0x40#8 [0x00#8, 0x00#8, 0x00#8, 0x00#8] rfl (by decide) (by rfl)
theorem readMdr0 : Statement .readMdr0 := of_byte 0x48#8 [0x00#8, 0x00#8, 0x00#8, 0x00#8] rfl (by decide) (by rfl)
theorem readMdr1 : Statement .readMdr1 := of_byte 0x50#8 [0x00#8, 0x00#8, 0x00#8, 0x00#8] rfl (by decide) (by rfl)
theorem readDtr : Statement .readDtr := of_byte 0x58#8 [0x00#8, 0x00#8, 0x00#8, 0x00#8] rfl (by decide) (by rfl)
theorem readCntr : Statement .readCntr := of_byte 0x60#8 [0x00#8, 0x00#8, 0x00#8, 0x00#8] rfl (by decide) (by rfl)
theorem readOtr : Statement .readOtr := of_byte 0x68#8 [0x00#8, 0x00#8, 0x00#8, 0x00#8] rfl (by decide) (by rfl)
theorem readStr : Statement .readStr := of_byte 0x70#8 [0x00#8, 0x00#8, 0x00#8, 0x00#8] rfl (by decide) (by rfl)
theorem readNoneAlias : Statement .readNoneAlias := of_byte 0x78#8 [0x00#8, 0x00#8, 0x00#8, 0x00#8] rfl (by decide) (by rfl)
theorem writeNone (data : List Byte) : Statement (.writeNone data) := of_byte 0x80#8 data (encode_write 0#3 rfl rfl rfl (by decide)) (by decide) (by rfl)
theorem writeMdr0 (data : List Byte) : Statement (.writeMdr0 data) := of_byte 0x88#8 data (encode_write 1#3 rfl rfl rfl (by decide)) (by decide) (by rfl)
theorem writeMdr1 (data : List Byte) : Statement (.writeMdr1 data) := of_byte 0x90#8 data (encode_write 2#3 rfl rfl rfl (by decide)) (by decide) (by rfl)
theorem writeDtr (data : List Byte) : Statement (.writeDtr data) := of_byte 0x98#8 data (encode_write 3#3 rfl rfl rfl (by decide)) (by decide) (by rfl)
theorem writeCntr (data : List Byte) : Statement (.writeCntr data) := of_byte 0xA0#8 data (encode_write 4#3 rfl rfl rfl (by decide)) (by decide) (by rfl)
theorem writeOtr (data : List Byte) : Statement (.writeOtr data) := of_byte 0xA8#8 data (encode_write 5#3 rfl rfl rfl (by decide)) (by decide) (by rfl)
theorem writeStr (data : List Byte) : Statement (.writeStr data) := of_byte 0xB0#8 data (encode_write 6#3 rfl rfl rfl (by decide)) (by decide) (by rfl)
theorem writeNoneAlias (data : List Byte) : Statement (.writeNoneAlias data) := of_byte 0xB8#8 data (encode_write 7#3 rfl rfl rfl (by decide)) (by decide) (by rfl)
theorem loadNone : Statement .loadNone := of_byte 0xC0#8 [] rfl (by decide) (by rfl)
theorem loadMdr0 : Statement .loadMdr0 := of_byte 0xC8#8 [] rfl (by decide) (by rfl)
theorem loadMdr1 : Statement .loadMdr1 := of_byte 0xD0#8 [] rfl (by decide) (by rfl)
theorem loadDtr : Statement .loadDtr := of_byte 0xD8#8 [] rfl (by decide) (by rfl)
theorem loadCntr : Statement .loadCntr := of_byte 0xE0#8 [] rfl (by decide) (by rfl)
theorem loadOtr : Statement .loadOtr := of_byte 0xE8#8 [] rfl (by decide) (by rfl)
theorem loadStr : Statement .loadStr := of_byte 0xF0#8 [] rfl (by decide) (by rfl)
theorem loadNoneAlias : Statement .loadNoneAlias := of_byte 0xF8#8 [] rfl (by decide) (by rfl)

end Sys2Proof.Laws.EncodedHeader
end

