-- ==== Sys2Proof/Laws/Step.lean ====
section
/-! SUPPORT. Laws/Step.lean: what one step can do, said once: every next state of a step, of the engine, and of the operation in
flight comes from one of the cases below. -/

namespace Sys2Proof.Machine

open Sys2Proof

/-- An instruction whose payload fits, with the interface free: its one invocation, settled. -/
theorem runCurrent_fits {c : Context} {i : Instr} {s : State} (hc : Context.current c = some i) (hw : i.wf = true)
    (hb : s.link.blocked = false) :
    runCurrent c s = .next (settle c (invoke (invocationOf i.header i.payload) (s.setContext (some c)))) := by
  obtain ⟨t, he, hr⟩ := runCurrent_eq hc s
  rw [exec_eq_issue, issue_fits (by simpa using hb) (by rw [← hw, wf_eq_payloadFits]; rfl)] at he
  injection he with he
  rw [hr, he]

/-- Every instruction of a job whose payload check passed is well formed. -/
theorem program_wf {j : Job} (hj : Job.payloadOk j = true) : ∀ i ∈ Job.program j, i.wf = true := by
  cases j with
  | wire i => simpa [Job.program, Job.payloadOk] using hj
  | operation o =>
    cases o with
    | writeRegister t data => simpa [Job.program, Operation.program] using ofHeader_wf (h := ⟨t, .write⟩) hj
    | readRegister t => simpa [Job.program, Operation.program] using ofHeader_wf (h := ⟨t, .read⟩) (data := []) rfl
    | act h data => simpa [Job.program, Operation.program] using ofHeader_wf (h := h) hj
    | getStatus => simp [Job.program, Operation.program, Instr.wf]
    | getCount => simp [Job.program, Operation.program, Instr.wf]
    | initializeDefaults => simp [Job.program, Operation.program, Instr.wf, Config.maxPayload]

/-- The current instruction is one of the job's program, at the context's index. -/
theorem current_some {c : Context} {i : Instr} (h : Context.current c = some i) :
    c.captured.length = (((Job.program c.job).take c.index).map replyBytes).sum ∧
      (Job.program c.job)[c.index]? = some i := by
  unfold Context.current at h
  split at h
  · exact ⟨by assumption, h⟩
  · cases h

/-- A context in order has a current instruction, and it is well formed. -/
theorem current_of_wf {c : Context} (h : c.wf = true) : ∃ i, Context.current c = some i ∧ i.wf = true := by
  simp only [Context.wf, Bool.and_eq_true, Option.isSome_iff_exists] at h
  obtain ⟨⟨i, hi⟩, hj⟩ := h
  exact ⟨i, hi, program_wf hj i (List.mem_of_getElem? (current_some hi).2)⟩

/-- A step that succeeded and is not the last: the index has moved on by one, the captured bytes are kept. -/
theorem advance_more {c : Context} {bytes : List Byte} {s : State} (h : c.index + 1 < (Job.program c.job).length) :
    advance c bytes s = (s.setLink .quiet).setContext
      (some { job := c.job, index := c.index + 1, captured := c.captured ++ bytes }) := by simp [advance, h]

/-- The last step: the response is given. -/
theorem advance_last {c : Context} {bytes : List Byte} {r : Response} {s : State}
    (h : ¬ c.index + 1 < (Job.program c.job).length) (hr : Job.finish c.job (c.captured ++ bytes) = some r) :
    advance c bytes s = respond r s := by simp [advance, h, hr]

/-- What a current instruction hands back is as many bytes as its action says. -/
theorem captured_next {c : Context} {i : Instr} {bytes : List Byte} (hc : Context.current c = some i)
    (hb : bytes.length = replyBytes i) :
    (c.captured ++ bytes).length = (((Job.program c.job).take (c.index + 1)).map replyBytes).sum := by
  rw [List.length_append, hb, (current_some hc).1, List.take_add_one, (current_some hc).2]
  simp

/-- A job whose steps have all captured their bytes has a response. -/
theorem finish_some {j : Job} {captured : List Byte} (h : captured.length = ((Job.program j).map replyBytes).sum) :
    ∃ r, Job.finish j captured = some r := by
  cases j with
  | wire i => exact ⟨_, rfl⟩
  | operation o =>
    cases o with
    | writeRegister | readRegister | act | initializeDefaults => exact ⟨_, rfl⟩
    | getStatus =>
      match captured, show captured.length = 4 from h with
      | [_, _, _, _], _ => exact ⟨_, rfl⟩
    | getCount =>
      match captured, show captured.length = 8 from h with
      | [m1, m2, m3, m4, _, _, _, b], _ =>
        cases hd : Str.decode b with
        | ok st => cases hs : st.sign <;> simp [Job.finish, countResponse, hd, reconstruct, bytesToUnsigned, hs]
        | err f => simp [Job.finish, countResponse, hd]

/-- A job starts at the first instruction of its program. -/
theorem start_wf {j : Job} (hj : Job.payloadOk j = true) : (Context.start j).wf = true := by
  cases j with
  | wire i => simpa [Context.wf, Context.current, Context.start, Job.program] using hj
  | operation o =>
    cases o <;> simpa [Context.wf, Context.current, Context.start, Job.program, Operation.program] using hj

/-- Everything a step can answer with a next state: one codec call; nothing (blocked, or idle with no request); the next step of
the operation in flight; the first step of the oldest request; or that request turned away for its payload. -/
theorem step_cases {s t : State} (h : step s = .next t) :
    (∃ c rest v, s.codecCalls = c :: rest ∧ evalCodec c = some v ∧
        t = { s with codecCalls := rest, codecResults := s.codecResults ++ [v] }) ∨
      (s.codecCalls = [] ∧ s.link.blocked = true ∧ t = s) ∨
      (∃ c, s.Free ∧ s.inFlight = some c ∧ runCurrent c s = .next t) ∨
      (s.Free ∧ s.inFlight = none ∧ s.requests = [] ∧ t = s) ∨
      (∃ r rest j, s.Ready r rest ∧ Request.job r = some j ∧ Job.payloadOk j = true ∧
        runCurrent (Context.start j) (s.setRequests rest) = .next t) ∨
      (∃ r rest, s.Ready r rest ∧ t = respond (.err .payloadTooBig) (s.setRequests rest)) := by
  unfold step at h
  split at h
  · rename_i c rest hcc
    obtain ⟨v, hv, rfl⟩ := serveCodec_next h
    exact .inl ⟨c, rest, v, hcc, hv, rfl⟩
  rename_i hcc
  refine .inr ?_
  unfold runEngine at h
  cases hb : s.link.blocked with
  | true => simp [hb] at h; exact .inl ⟨hcc, rfl, h.symm⟩
  | false =>
    refine .inr ?_
    have hfree : s.Free := ⟨hcc, hb⟩
    cases hc : s.inFlight with
    | some c => simp [hb, hc] at h; exact .inl ⟨c, hfree, rfl, h⟩
    | none =>
      refine .inr ?_
      simp only [hb, hc] at h
      unfold accept at h
      cases hr : s.requests with
      | nil => simp [hr] at h; exact .inl ⟨hfree, rfl, rfl, h.symm⟩
      | cons r rest =>
        refine .inr ?_
        have hready : s.Ready r rest := ⟨hfree, hc, hr⟩
        cases r with
        | operation o =>
          cases ho : Operation.payloadOk o with
          | true => simp [hr, ho] at h; exact .inl ⟨_, rest, .operation o, hready, rfl, ho, h⟩
          | false => simp [hr, ho] at h; exact .inr ⟨_, rest, hready, h.symm⟩
        | encoded bytes =>
          simp only [hr] at h
          cases hd : decode bytes with
          | ok i => simp [hd] at h; exact .inl ⟨_, rest, .wire i, hready, by simp [Request.job, hd], wf_of_decode hd, h⟩
          | err e =>
            cases e with
            | noHeader => simp [hd] at h
            | payloadTooBig => simp [hd] at h; exact .inr ⟨_, rest, hready, h.symm⟩
            | field f => exact absurd hd (decode_ne_field bytes f)

/-- An idle block with nothing asked waits. -/
theorem step_idle {s : State} (h : s.Free) (hi : s.inFlight = none) (hr : s.requests = []) : step s = .next s := by
  obtain ⟨hc, hb⟩ := h
  simp [step, hc, runEngine, hb, hi, accept, hr]

/-- What becomes of the operation in flight: it is still in flight with no response, or it is over with one. -/
theorem settle_job {c : Context} {s : State} (h : s.inFlight = some c) :
    (∃ c', (settle c s).inFlight = some c' ∧ c'.job = c.job ∧ (settle c s).responses = s.responses) ∨
      ((settle c s).inFlight = none ∧ ∃ r, (settle c s).responses = s.responses ++ [r]) := by
  unfold settle
  split
  · unfold advance
    split
    · exact .inl ⟨_, rfl, rfl, rfl⟩
    · split
      · exact .inr ⟨rfl, _, rfl⟩
      · exact .inl ⟨c, h, rfl, rfl⟩
  · exact .inr ⟨rfl, _, rfl⟩
  · exact .inl ⟨c, h, rfl, rfl⟩
  · exact .inl ⟨c, h, rfl, rfl⟩

/-- A step with nothing in flight and the interface free is the acceptance of the oldest request. -/
theorem step_ready {s : State} {r : Request} {rest : List Request} (h : s.Ready r rest) : step s = accept s := by
  obtain ⟨⟨hc, hb⟩, hi, -⟩ := h
  simp [step, hc, runEngine, hb, hi]

/-- A step with an operation in flight and the interface free is that operation's next step. -/
theorem step_inFlight {s : State} {c : Context} (h : s.Free) (hi : s.inFlight = some c) : step s = runCurrent c s := by
  obtain ⟨hc, hb⟩ := h
  simp [step, hc, runEngine, hb, hi]

@[simp] theorem runSteps_zero (s : State) : runSteps 0 s = .next s := rfl

/-- A run's first step, of any machine. -/
theorem hostRun_next {M : Host.Core} {s t : M.State} (n : Nat) (h : M.step s = .next t) :
    M.run (n + 1) s = M.run n t := by
  rw [Host.Core.run, h]

/-- A run's first step. -/
theorem runSteps_next {s t : State} (n : Nat) (h : step s = .next t) : runSteps (n + 1) s = runSteps n t :=
  hostRun_next (M := Sys2Proof.core) n h

/-- A state that a step leaves as it is stays as it is. -/
theorem runSteps_fixed {s : State} (h : step s = .next s) (n : Nat) : runSteps n s = .next s := by
  induction n with
  | zero => rfl
  | succ n ih => rw [runSteps_next n h, ih]

end Sys2Proof.Machine
end

