-- ==== Sys2Proof/Tests/Slice0.lean ====
section
/-! SUPPORT. Tests/Slice0.lean: small checks of the model against vectors of spec/95_test_vectors.md and words written out from
section 2 of 30_encoding.md, and for each statement with hypotheses a state and operands that meet them. -/

namespace Sys2Proof.Machine.Tests

open Sys2Proof Sys2Proof.Machine

/-- An idle block whose transport has these answers lined up. -/
def mock (answers : List Answer) : State := { State.reset with answers := answers }

/-- The same with one request presented. -/
def asked (r : Request) (answers : List Answer) : State := (mock answers).present r

/-- The same with an operation in flight at a step. -/
def running (c : Context) (answers : List Answer) : State := { mock answers with inFlight := some c }

/-- A response of a transfer: `[EE a b c d]`. -/
def reply (a b c d : Byte) : Answer := .success ⟨0xEE#8, a, b, c, d⟩

def done : Answer := reply 0x00#8 0x00#8 0x00#8 0x00#8
def broken : Answer := .failure ⟨7⟩

def nextState (o : Host.Outcome State Fault Refusal) : Option State :=
  match o with
  | .next s => some s
  | .fault _ => none
  | .refused _ => none

def refusalOf (o : Host.Outcome State Fault Refusal) : Option Refusal :=
  match o with
  | .next _ => none
  | .fault _ => none
  | .refused r => some r

/-- The invocations of one step or instruction, from an empty trace. -/
def busOf (o : Host.Outcome State Fault Refusal) : Option (List Invocation) :=
  (nextState o).map fun s => s.trace.map Event.invocation

/-- The responses given by one step, from none. -/
def answersOf (o : Host.Outcome State Fault Refusal) : Option (List Response) := (nextState o).map State.responses

/-- What an instruction leaves the interface holding. -/
def linkOf (o : Host.Outcome State Fault Refusal) : Option Link := (nextState o).map State.link

/-- A write of a frame. -/
def w (frame : List Byte) : Option (List Invocation) := some [⟨.writeBytes, frame⟩]

/-- A transfer of a frame. -/
def x (frame : List Byte) : Option (List Invocation) := some [⟨.transferBytes, frame⟩]

/-! ## Well-formedness: 5 payload bytes are refused, 4 and 0 are not (R153, R168) -/

theorem test_wf_refuses_five_bytes :
    ∀ i ∈ [Instr.writeNone [1, 2, 3, 4, 5], .writeMdr0 [1, 2, 3, 4, 5], .writeMdr1 [1, 2, 3, 4, 5],
      .writeDtr [1, 2, 3, 4, 5], .writeCntr [1, 2, 3, 4, 5], .writeOtr [1, 2, 3, 4, 5], .writeStr [1, 2, 3, 4, 5],
      .writeNoneAlias [1, 2, 3, 4, 5]], i.wf = false := by decide

theorem test_wf_accepts_four_and_none :
    (Instr.writeMdr0 [1, 2, 3, 4]).wf = true ∧ (Instr.writeDtr []).wf = true ∧ Instr.readStr.wf = true := by decide

/-! ## Decoding: every constructor's word, written out as action (2 bits), target (3 bits), reserved (3 bits) -/

theorem test_decode_clear :
    decode [0b00000000#8] = .ok .clearNone ∧ decode [0b00001000#8] = .ok .clearMdr0 ∧
    decode [0b00010000#8] = .ok .clearMdr1 ∧ decode [0b00011000#8] = .ok .clearDtr ∧
    decode [0b00100000#8] = .ok .clearCntr ∧ decode [0b00101000#8] = .ok .clearOtr ∧
    decode [0b00110000#8] = .ok .clearStr ∧ decode [0b00111000#8] = .ok .clearNoneAlias := by decide

theorem test_decode_read :
    decode [0b01000000#8, 0, 0, 0, 0] = .ok .readNone ∧ decode [0b01001000#8, 0, 0, 0, 0] = .ok .readMdr0 ∧
    decode [0b01010000#8, 0, 0, 0, 0] = .ok .readMdr1 ∧ decode [0b01011000#8, 0, 0, 0, 0] = .ok .readDtr ∧
    decode [0b01100000#8, 0, 0, 0, 0] = .ok .readCntr ∧ decode [0b01101000#8, 0, 0, 0, 0] = .ok .readOtr ∧
    decode [0b01110000#8, 0, 0, 0, 0] = .ok .readStr ∧ decode [0b01111000#8, 0, 0, 0, 0] = .ok .readNoneAlias := by
  decide

theorem test_decode_write :
    decode [0b10000000#8] = .ok (.writeNone []) ∧ decode [0b10001000#8, 3] = .ok (.writeMdr0 [3]) ∧
    decode [0b10010000#8, 0] = .ok (.writeMdr1 [0]) ∧
    decode [0b10011000#8, 0, 0, 0, 1] = .ok (.writeDtr [0, 0, 0, 1]) ∧
    decode [0b10100000#8, 0, 0, 1, 0] = .ok (.writeCntr [0, 0, 1, 0]) ∧
    decode [0b10101000#8, 0x12, 0x34] = .ok (.writeOtr [0x12, 0x34]) ∧
    decode [0b10110000#8, 0] = .ok (.writeStr [0]) ∧ decode [0b10111000#8, 9] = .ok (.writeNoneAlias [9]) := by decide

theorem test_decode_load :
    decode [0b11000000#8] = .ok .loadNone ∧ decode [0b11001000#8] = .ok .loadMdr0 ∧
    decode [0b11010000#8] = .ok .loadMdr1 ∧ decode [0b11011000#8] = .ok .loadDtr ∧
    decode [0b11100000#8] = .ok .loadCntr ∧ decode [0b11101000#8] = .ok .loadOtr ∧
    decode [0b11110000#8] = .ok .loadStr ∧ decode [0b11111000#8] = .ok .loadNoneAlias := by decide

theorem test_decode_rejects_by_name :
    decode [] = .err .noHeader ∧ decode [0b00100000#8, 0] = .err .payloadTooBig ∧
    decode [0b11101000#8, 0] = .err .payloadTooBig ∧ decode [0b10011000#8, 1, 2, 3, 4, 5] = .err .payloadTooBig := by
  decide

/-- A Read's trailing bytes are ignored, six of them too (R157, D23). -/
theorem test_decode_read_ignores_data :
    decode [0b01100000#8, 0xAA, 0xBB, 0xCC, 0xDD, 0xEE, 0xFF] = .ok .readCntr := by decide

theorem test_encode_words :
    encode .clearStr = [0b00110000#8] ∧ encode .readNoneAlias = [0b01111000#8, 0, 0, 0, 0] ∧
    encode (.writeOtr [0x12, 0x34]) = [0b10101000#8, 0x12, 0x34] ∧ encode .loadDtr = [0b11011000#8] := by decide

/-! ## Codecs (95_test_vectors.md sections 1 and 2) -/

/-- Section 2.2, decode corner cases. -/
theorem test_header_corners :
    Header.decode 0x65#8 = .ok ⟨.cntr, .read⟩ ∧ Header.decode 0x07#8 = .ok ⟨.none, .clear⟩ ∧
    Header.decode 0x3F#8 = .ok ⟨.none, .clear⟩ ∧ Header.decode 0xBA#8 = .ok ⟨.none, .write⟩ := by decide

/-- Section 2.3. -/
theorem test_mdr0_vectors :
    Mdr0.decode 0x5A#8 = .ok ⟨.quad2x, .rangeLimit, .loadCntr, true, .one⟩ ∧
    Mdr0.encode ⟨.quad1x, .singleCycle, .clearCntr, false, .two⟩ = 0xA5#8 := by decide

/-- Section 2.3. -/
theorem test_mdr1_vectors :
    Mdr1.decode 0x9E#8 = .ok ⟨.byte2, true, true, false, false, true⟩ ∧
    Mdr1.encode ⟨.byte2, true, true, false, false, true⟩ = 0x96#8 := by decide

/-- Section 1.5. -/
theorem test_str_vectors :
    Str.decode 0x0A#8 = .ok ⟨.positive, .up, false, true, false, false, false, false⟩ ∧
    Str.decode 0xF5#8 = .ok ⟨.negative, .down, true, false, true, true, true, true⟩ := by decide

/-- Section 2.5. -/
theorem test_reconstruct_vectors :
    reconstruct [0xDE#8, 0xAD#8, 0xBE#8, 0xEF#8] .negative = some 0xFFFFFFFF21524111#64 ∧
    reconstruct [0x12#8, 0x34#8, 0x56#8] .negative = some 0xFFFFFFFFFFEDCBAA#64 ∧
    reconstruct [0x80#8, 0x00#8, 0x00#8, 0x00#8] .positive = some 0x0000000080000000#64 ∧
    reconstruct [] .negative = some 0#64 := by decide

/-! ## Wire instructions (95_test_vectors.md section 2.6): the frame each puts on the bus -/

theorem test_exec_clear_frames :
    busOf (exec .clearNone (mock [done])) = w [0x00] ∧ busOf (exec .clearMdr0 (mock [done])) = w [0x08] ∧
    busOf (exec .clearMdr1 (mock [done])) = w [0x10] ∧ busOf (exec .clearDtr (mock [done])) = w [0x18] ∧
    busOf (exec .clearCntr (mock [done])) = w [0x20] ∧ busOf (exec .clearOtr (mock [done])) = w [0x28] ∧
    busOf (exec .clearStr (mock [done])) = w [0x30] ∧ busOf (exec .clearNoneAlias (mock [done])) = w [0x00] := by
  decide

theorem test_exec_read_frames :
    busOf (exec .readNone (mock [done])) = x [0x40, 0, 0, 0, 0] ∧
    busOf (exec .readMdr0 (mock [done])) = x [0x48, 0, 0, 0, 0] ∧
    busOf (exec .readMdr1 (mock [done])) = x [0x50, 0, 0, 0, 0] ∧
    busOf (exec .readDtr (mock [done])) = x [0x58, 0, 0, 0, 0] ∧
    busOf (exec .readCntr (mock [done])) = x [0x60, 0, 0, 0, 0] ∧
    busOf (exec .readOtr (mock [done])) = x [0x68, 0, 0, 0, 0] ∧
    busOf (exec .readStr (mock [done])) = x [0x70, 0, 0, 0, 0] ∧
    busOf (exec .readNoneAlias (mock [done])) = x [0x40, 0, 0, 0, 0] := by decide

theorem test_exec_write_frames :
    busOf (exec (.writeNone []) (mock [done])) = w [0x80] ∧
    busOf (exec (.writeMdr0 [3]) (mock [done])) = w [0x88, 3] ∧
    busOf (exec (.writeMdr1 [0]) (mock [done])) = w [0x90, 0] ∧
    busOf (exec (.writeDtr [0, 0, 0, 0]) (mock [done])) = w [0x98, 0, 0, 0, 0] ∧
    busOf (exec (.writeCntr [0, 0, 1, 0]) (mock [done])) = w [0xA0, 0, 0, 1, 0] ∧
    busOf (exec (.writeOtr [0x12, 0x34]) (mock [done])) = w [0xA8, 0x12, 0x34] ∧
    busOf (exec (.writeStr [0]) (mock [done])) = w [0xB0, 0] ∧
    busOf (exec (.writeNoneAlias [9]) (mock [done])) = w [0x80, 9] := by decide

theorem test_exec_load_frames :
    busOf (exec .loadNone (mock [done])) = w [0xC0] ∧ busOf (exec .loadMdr0 (mock [done])) = w [0xC8] ∧
    busOf (exec .loadMdr1 (mock [done])) = w [0xD0] ∧ busOf (exec .loadDtr (mock [done])) = w [0xD8] ∧
    busOf (exec .loadCntr (mock [done])) = w [0xE0] ∧ busOf (exec .loadOtr (mock [done])) = w [0xE8] ∧
    busOf (exec .loadStr (mock [done])) = w [0xF0] ∧ busOf (exec .loadNoneAlias (mock [done])) = w [0xC0] := by
  decide

/-- `[xx a b c d]` hands back `[a b c d]`; a write hands back nothing. -/
theorem test_exec_hands_back :
    linkOf (exec .readOtr (mock [reply 0 0 1 0])) = some (.replied (.ok [0, 0, 1, 0])) ∧
    linkOf (exec .loadOtr (mock [reply 0 0 1 0])) = some (.replied (.ok [])) ∧
    linkOf (exec .readOtr (mock [broken])) = some (.replied (.err (.transport ⟨7⟩))) := by decide

/-! ## Operations (95_test_vectors.md section 2.7) -/

theorem test_writeRegister :
    busOf (step (asked (.operation (.writeRegister .mdr0 [1, 2, 3, 4])) [done])) = w [0x88, 1, 2, 3, 4] ∧
    answersOf (step (asked (.operation (.writeRegister .mdr0 [3])) [broken])) = some [.err (.transport ⟨7⟩)] ∧
    busOf (step (asked (.operation (.writeRegister .dtr [1, 2, 3, 4, 5])) [done])) = some [] ∧
    answersOf (step (asked (.operation (.writeRegister .dtr [1, 2, 3, 4, 5])) [done])) = some [.err .payloadTooBig] := by
  decide

theorem test_readRegister :
    answersOf (step (asked (.operation (.readRegister .otr)) [reply 0 0 1 0])) = some [.ok (.bytes [0, 0, 1, 0])] := by
  decide

theorem test_act :
    answersOf (step (asked (.operation (.act ⟨.otr, .load⟩ [0])) [done])) = some [.err .payloadTooBig] ∧
    answersOf (step (asked (.operation (.act ⟨.cntr, .read⟩ [1, 2, 3, 4, 5, 6])) [reply 0 0 0 0x2A])) =
      some [.ok (.bytes [0, 0, 0, 0x2A])] ∧
    answersOf (step (asked (.operation (.act ⟨.mdr1, .write⟩ [4])) [done])) = some [.ok (.bytes [])] := by decide

theorem test_getStatus :
    answersOf (step (asked (.operation .getStatus) [reply 0x11 0x22 0x33 0x0A])) =
      some [.ok (.status ⟨.positive, .up, false, true, false, false, false, false⟩)] := by decide

/-- The second step of a `getCount` whose first captured DE AD BE EF; sign bit 1 (section 1.3), and bit 0 of FE (section 2.7). -/
theorem test_getCount_second_step :
    answersOf (step (running ⟨.operation .getCount, 1, [0xDE, 0xAD, 0xBE, 0xEF]⟩ [reply 0 0 0 1])) =
      some [.ok (.count 0xFFFFFFFF21524111#64)] ∧
    answersOf (step (running ⟨.operation .getCount, 1, [0, 0, 1, 0]⟩ [reply 0 0 0 0xFE])) =
      some [.ok (.count 256#64)] := by decide

/-- Program P1: each step of `initializeDefaults`. -/
theorem test_initializeDefaults_frames :
    busOf (step (running ⟨.operation .initializeDefaults, 0, []⟩ [done])) = w [0x88, 3] ∧
    busOf (step (running ⟨.operation .initializeDefaults, 1, []⟩ [done])) = w [0x90, 0] ∧
    busOf (step (running ⟨.operation .initializeDefaults, 2, []⟩ [done])) = w [0x98, 0, 0, 0, 0] ∧
    busOf (step (running ⟨.operation .initializeDefaults, 3, []⟩ [done])) = w [0xE0] := by decide

/-! ## The step -/

/-- A table word placed after reset is run by the very next step, whatever the transport answers. -/
theorem test_fetch_from_reset :
    isNext (step (State.reset.withFetchWord 8 0x20)) = true ∧ isNext (step (State.reset.withFetchWord 8 0x7F)) = true ∧
    busOf (step ((mock [done]).withFetchWord 8 0x20)) = w [0x20] ∧
    busOf (step ((mock [done]).withFetchWord 8 0x7F)) = x [0x40, 0, 0, 0, 0] := by decide

theorem test_empty_request_is_refused : refusalOf (step (asked (.encoded []) [])) = some .emptyFrame := by decide

theorem test_long_sequence_is_refused :
    refusalOf (step (State.reset.callCodec (.bytesToUnsigned [0, 0, 0, 0, 1]))) = some .sequenceTooLong := by decide

/-- A codec call is answered while an operation is in flight, which stays as it was. -/
theorem test_codec_call_in_flight :
    (nextState (step ((running ⟨.operation .getCount, 1, [0, 0, 0, 1]⟩ []).callCodec (.headerDecode 0x70#8)))).map
      (fun t => (t.codecResults, t.inFlight, t.trace)) =
    some ([.header (.ok ⟨.str, .read⟩)], some ⟨.operation .getCount, 1, [0, 0, 0, 1]⟩, []) := by decide

/-- The block idle, with nothing to do, waits. -/
theorem test_reset_waits : nextState (step State.reset) = some State.reset := by decide

/-! ## Witnesses: a state and operands that meet the hypotheses of each statement, each clause at its boundary -/

/-- BytesToUnsignedIsBigEndian, ReconstructIsSignAndMagnitude, ReconstructRangeAndZero: lengths 0 and 4. -/
theorem test_witness_short_sequences :
    ([] : List Byte).length ≤ 4 ∧ ([0xFF#8, 0xFF#8, 0xFF#8, 0xFF#8]).length ≤ 4 := by decide

/-- LongSequencesAreRefused: length 5, at both calls. -/
theorem test_witness_long_sequence :
    4 < ([0#8, 0#8, 0#8, 0#8, 0#8]).length ∧
    (State.reset.callCodec (.bytesToUnsigned [0, 0, 0, 0, 0])).codecCalls = [.bytesToUnsigned [0, 0, 0, 0, 0]] ∧
    (State.reset.callCodec (.reconstruct [0, 0, 0, 0, 0] .negative)).codecCalls =
      [.reconstruct [0, 0, 0, 0, 0] .negative] := by decide

/-- CodecCallsAreEvaluatedAnyTime. -/
theorem test_witness_codec_call :
    (State.reset.callCodec (.targetDecode 7#3)).codecCalls = [.targetDecode 7#3] ∧
    evalCodec (.targetDecode 7#3) = some (.target (.ok .none)) := by decide

/-- ClearRegisterSendsItsHeader, LoadRegisterSendsItsHeader, ClearAndLoadNoneSendTheEmittedHeader, ReadRegisterExchangesFiveBytes,
ReadNoneExchangesFiveBytes, UnreturnedInvocationHoldsTheInterface: a free interface, and each of the three answers; the last
member of a list is a member. -/
theorem test_witness_exec_answers :
    (mock [done]).link.blocked = false ∧ Instr.clearStr.wf = true ∧
    (Instr.loadNoneAlias, 0xC0#8) ∈ [(Instr.loadNone, 0xC0#8), (Instr.loadNoneAlias, 0xC0#8)] ∧ (mock [done]).answerAt 0 = .success ⟨0xEE, 0, 0, 0, 0⟩ ∧
    (mock [broken]).answerAt 0 = .failure ⟨7⟩ ∧ (mock [.hang]).answerAt 0 = .hang := by decide

/-- WriteRegisterSendsHeaderAndPayload, WriteNoneSendsHeaderAndPayload: payloads of 0 and 4 bytes. -/
theorem test_witness_write_payloads :
    (mock [.hang]).link.blocked = false ∧ ([] : List Byte).length ≤ 4 ∧ ([1#8, 2#8, 3#8, 4#8]).length ≤ 4 ∧
    (Instr.writeStr [1, 2, 3, 4], 0xB0#8) ∈ [(Instr.writeOtr [1, 2, 3, 4], 0xA8#8), (Instr.writeStr [1, 2, 3, 4], 0xB0#8)] := by
  decide

/-- OversizedWriteIsNotSent: 5 bytes. -/
theorem test_witness_oversized_write :
    (mock []).link.blocked = false ∧ 4 < ([1#8, 2#8, 3#8, 4#8, 5#8]).length ∧
    Instr.writeMdr0 [1, 2, 3, 4, 5] ∈ [Instr.writeNone [1, 2, 3, 4, 5], Instr.writeMdr0 [1, 2, 3, 4, 5]] := by decide

/-- ExecChangesOnlyTheTransport, both alternatives of its conclusion: an instruction sent, and one not sent. -/
theorem test_witness_exec_frame :
    busOf (exec .readStr (mock [done])) = x [0x70, 0, 0, 0, 0] ∧
    busOf (exec (.writeStr [1, 2, 3, 4, 5]) (mock [done])) = some [] := by decide

/-- BlockedInterfaceSendsNothing: what `Clear Cntr` leaves when it does not return. -/
theorem test_witness_blocked :
    linkOf (exec .clearCntr (mock [.hang])) = some (.waiting ⟨.writeBytes, [0x20]⟩) ∧
    ({ State.reset with link := .waiting ⟨.writeBytes, [0x20#8]⟩ } : State).codecCalls = [] := by decide

/-- EveryPairIsIssuedAsAsked: a Load on Mdr0, a Write of 4 bytes to Str, a Read of Str with 6 bytes, by `act` and the other two. -/
theorem test_witness_pairs :
    (asked (.operation (.act ⟨.mdr0, .load⟩ [])) []).Ready (.operation (.act ⟨.mdr0, .load⟩ [])) [] ∧
    (asked (.operation (.act ⟨.str, .write⟩ [1, 2, 3, 4])) []).Ready (.operation (.act ⟨.str, .write⟩ [1, 2, 3, 4])) [] ∧
    (asked (.operation (.act ⟨.str, .read⟩ [1, 2, 3, 4, 5, 6])) []).Ready
      (.operation (.act ⟨.str, .read⟩ [1, 2, 3, 4, 5, 6])) [] ∧
    (asked (.operation (.writeRegister .str [1, 2, 3, 4])) []).Ready (.operation (.writeRegister .str [1, 2, 3, 4])) [] ∧
    (asked (.operation (.readRegister .none)) []).Ready (.operation (.readRegister .none)) [] ∧
    ([1#8, 2#8, 3#8, 4#8]).length ≤ 4 :=
  ⟨⟨⟨rfl, rfl⟩, rfl, rfl⟩, ⟨⟨rfl, rfl⟩, rfl, rfl⟩, ⟨⟨rfl, rfl⟩, rfl, rfl⟩, ⟨⟨rfl, rfl⟩, rfl, rfl⟩,
    ⟨⟨rfl, rfl⟩, rfl, rfl⟩, by decide⟩

/-- DecodeEncodeRoundTrip: the largest payload. -/
theorem test_witness_round_trip : (Instr.writeNoneAlias [1, 2, 3, 4]).wf = true := by decide

/-- StepRunsDecodedInstruction, EncodedRequestIsAnswered (a success and a failure), FetchWordRunsNext. -/
theorem test_witness_encoded :
    (asked (.encoded [0x98#8, 1#8]) [done]).Ready (.encoded [0x98#8, 1#8]) [] ∧
    (asked (.encoded [0x98#8, 1#8]) [broken]).Ready (.encoded [0x98#8, 1#8]) [] ∧
    decode [0x98#8, 1#8] = .ok (.writeDtr [1]) ∧ (asked (.encoded [0x98#8, 1#8]) [done]).answerAt 0 = done ∧
    (asked (.encoded [0x98#8, 1#8]) [broken]).answerAt 0 = broken ∧ decodeTableWord 16 0x0198 = some (.writeDtr [1]) :=
  ⟨⟨⟨rfl, rfl⟩, rfl, rfl⟩, ⟨⟨rfl, rfl⟩, rfl, rfl⟩, by decide, by decide, by decide, by decide⟩

/-- WriteRegisterOperation, ActWriteOperation, PayloadTooBigBeforeAnyBusActivity: 5 bytes, and 4 with each answer. -/
theorem test_witness_write_operations :
    (asked (.operation (.writeRegister .str [1, 2, 3, 4, 5])) []).Ready
      (.operation (.writeRegister .str [1, 2, 3, 4, 5])) [] ∧
    (asked (.operation (.writeRegister .str [1, 2, 3, 4])) [done]).Ready
      (.operation (.writeRegister .str [1, 2, 3, 4])) [] ∧
    (asked (.operation (.act ⟨.cntr, .write⟩ [1, 2, 3, 4])) [broken]).Ready
      (.operation (.act ⟨.cntr, .write⟩ [1, 2, 3, 4])) [] ∧
    (asked (.operation (.act ⟨.cntr, .write⟩ [1, 2, 3, 4, 5])) []).Ready
      (.operation (.act ⟨.cntr, .write⟩ [1, 2, 3, 4, 5])) [] ∧
    (asked (.operation (.writeRegister .str [1, 2, 3, 4])) [done]).answerAt 0 = done ∧
    (asked (.operation (.act ⟨.cntr, .write⟩ [1, 2, 3, 4])) [broken]).answerAt 0 = broken :=
  ⟨⟨⟨rfl, rfl⟩, rfl, rfl⟩, ⟨⟨rfl, rfl⟩, rfl, rfl⟩, ⟨⟨rfl, rfl⟩, rfl, rfl⟩, ⟨⟨rfl, rfl⟩, rfl, rfl⟩, by decide,
    by decide⟩

/-- ReadRegisterOperation, ActReadOperation (6 data bytes), GetStatusOperation: a success and a failure each. -/
theorem test_witness_read_operations :
    (asked (.operation (.readRegister .none)) [done]).Ready (.operation (.readRegister .none)) [] ∧
    (asked (.operation (.act ⟨.str, .read⟩ [1, 2, 3, 4, 5, 6])) [broken]).Ready
      (.operation (.act ⟨.str, .read⟩ [1, 2, 3, 4, 5, 6])) [] ∧
    (asked (.operation .getStatus) [done]).Ready (.operation .getStatus) [] ∧
    (asked (.operation .getStatus) [broken]).Ready (.operation .getStatus) [] ∧
    (asked (.operation .getStatus) [done]).answerAt 0 = done ∧
    (asked (.operation .getStatus) [broken]).answerAt 0 = broken :=
  ⟨⟨⟨rfl, rfl⟩, rfl, rfl⟩, ⟨⟨rfl, rfl⟩, rfl, rfl⟩, ⟨⟨rfl, rfl⟩, rfl, rfl⟩, ⟨⟨rfl, rfl⟩, rfl, rfl⟩, by decide,
    by decide⟩

/-- ActClearOrLoadOperation, PayloadTooBigBeforeAnyBusActivity: no byte, and one byte. -/
theorem test_witness_act_clear_load :
    (asked (.operation (.act ⟨.cntr, .clear⟩ [])) [done]).Ready (.operation (.act ⟨.cntr, .clear⟩ [])) [] ∧
    (asked (.operation (.act ⟨.otr, .load⟩ [])) [broken]).Ready (.operation (.act ⟨.otr, .load⟩ [])) [] ∧
    (asked (.operation (.act ⟨.otr, .load⟩ [0])) []).Ready (.operation (.act ⟨.otr, .load⟩ [0])) [] ∧
    ([0#8] : List Byte).length ≠ 0 :=
  ⟨⟨⟨rfl, rfl⟩, rfl, rfl⟩, ⟨⟨rfl, rfl⟩, rfl, rfl⟩, ⟨⟨rfl, rfl⟩, rfl, rfl⟩, by decide⟩

/-- GetCountOperation: a first failure, a second failure, and two successes. -/
theorem test_witness_getCount :
    (asked (.operation .getCount) [broken]).Ready (.operation .getCount) [] ∧
    (asked (.operation .getCount) [broken]).answerAt 0 = broken ∧
    (asked (.operation .getCount) [done, broken]).answerAt 1 = broken ∧
    (asked (.operation .getCount) [done, reply 0 0 0 1]).answerAt 0 = done ∧
    (asked (.operation .getCount) [done, reply 0 0 0 1]).answerAt 1 = .success ⟨0xEE, 0, 0, 0, 1⟩ :=
  ⟨⟨⟨rfl, rfl⟩, rfl, rfl⟩, by decide, by decide, by decide, by decide⟩

/-- InitializeDefaultsOperation: four successes, a failure at step 0 and at step 3; StepsRefinePseudocode: an operation that is
answered and one that never is. -/
theorem test_witness_initializeDefaults :
    (asked (.operation .initializeDefaults) [done, done, done, done]).Ready (.operation .initializeDefaults) [] ∧
    (∀ k < 4, (asked (.operation .initializeDefaults) [done, done, done, done]).answerAt k = done) ∧
    (asked (.operation .initializeDefaults) [broken]).answerAt 0 = broken ∧
    (∀ j < 3, (asked (.operation .initializeDefaults) [done, done, done, broken]).answerAt j = done) ∧
    (asked (.operation .initializeDefaults) [done, done, done, broken]).answerAt 3 = broken ∧
    (Reference.run .initializeDefaults fun k => (asked (.operation .initializeDefaults) [broken]).answerAt k).response =
      some (.err (.transport ⟨7⟩)) ∧
    (Reference.run .initializeDefaults fun k => (asked (.operation .initializeDefaults) [.hang]).answerAt k).response =
      none :=
  ⟨⟨⟨rfl, rfl⟩, rfl, rfl⟩, by decide, by decide, by decide, by decide, by decide, by decide⟩

/-- StepsAndInputsKeepInvariant, StepStopsOnlyOnMalformedInput: the invariant of a state with an operation at its
second step, one event behind it and its invocation not returned. -/
theorem test_witness_invariant :
    State.Inv { State.reset with
      inFlight := some ⟨.operation .getCount, 1, [0, 0, 0, 5]⟩
      link := .waiting ⟨.transferBytes, [0x70#8, 0, 0, 0, 0]⟩
      trace := [⟨⟨.transferBytes, [0x60#8, 0, 0, 0, 0]⟩, .captured ⟨0xEE, 0, 0, 0, 5⟩⟩,
        ⟨⟨.transferBytes, [0x70#8, 0, 0, 0, 0]⟩, .notReturned⟩] } where
  trace_legal := by decide
  context_ok := by intro c h; cases h; decide
  link_ok := .inr ⟨⟨.operation .getCount, 1, [0, 0, 0, 5]⟩, .readStr, rfl, by decide, by decide, by decide⟩
  responses_legal := by decide
  codec_ok := by decide

/-- ResetIsIdleAndSilent: an idle state that is not the reset state, with an answer lined up and a response given. -/
theorem test_witness_idle :
    ({ mock [done] with responses := [.err .payloadTooBig] } : State).Free ∧
    ({ mock [done] with responses := [.err .payloadTooBig] } : State).inFlight = none ∧
    ({ mock [done] with responses := [.err .payloadTooBig] } : State).requests = [] :=
  ⟨⟨rfl, rfl⟩, rfl, rfl⟩

/-- PayloadTooBigBeforeAnyBusActivity, encoded: a Load with one byte, a Write with five. -/
theorem test_witness_encoded_too_big :
    (asked (.encoded [0xE8#8, 0]) []).Ready (.encoded [0xE8#8, 0]) [] ∧
    decode [0xE8#8, 0] = .err .payloadTooBig ∧ Header.decode 0xE8#8 = .ok ⟨.otr, .load⟩ ∧
    decode [0x98#8, 1, 2, 3, 4, 5] = .err .payloadTooBig ∧ Header.decode 0x98#8 = .ok ⟨.dtr, .write⟩ :=
  ⟨⟨⟨rfl, rfl⟩, rfl, rfl⟩, by decide, by decide, by decide, by decide⟩

/-- OneOperationAtATime: an operation that stays in flight, one that is answered; a request taken and in flight, one taken and
answered at once. -/
theorem test_witness_taken :
    (nextState (step (running ⟨.operation .getCount, 0, []⟩ [done]))).map State.inFlight =
      some (some ⟨.operation .getCount, 1, [0, 0, 0, 0]⟩) ∧
    answersOf (step (running ⟨.operation .getCount, 0, []⟩ [broken])) = some [.err (.transport ⟨7⟩)] ∧
    (nextState (step (asked (.encoded [0x20#8]) [.hang]))).map State.inFlight = some (some ⟨.wire .clearCntr, 0, []⟩) ∧
    answersOf (step (asked (.encoded [0x20#8, 0]) [])) = some [.err .payloadTooBig] := by decide

/-- DecodeErrorIsNeverGiven, from a state that no run reaches: its premise can be met, by a response that was there before. -/
theorem test_witness_decode_error :
    (nextState (step { State.reset with responses := [.err (.decode .outOfRange)] })).map State.responses =
      some [.err (.decode .outOfRange)] := by decide

/-- StepAppendsInOrder, OneOperationAtATime, ErrorsLeaveNothingBehind: one step of each kind answers a next state. -/
theorem test_witness_steps :
    (nextState (step (running ⟨.wire .clearStr, 0, []⟩ [broken]))).map State.responses = some [.err (.transport ⟨7⟩)] ∧
    (nextState (step ((running ⟨.wire .clearStr, 0, []⟩ [.hang]).present (.operation .getStatus)))).map State.requests =
      some [.operation .getStatus] ∧
    (nextState (step (asked (.operation .getCount) [done]))).map State.requests = some [] := by decide

/-- HangKeepsTheOperationInFlight, TransportErrorEndsTheOperation, SuccessAdvancesTheStepIndex: `getCount` at its first step,
`initializeDefaults` at its last but one, with each answer. -/
theorem test_witness_in_flight :
    (running ⟨.operation .getCount, 0, []⟩ [.hang]).Free ∧
    Context.current ⟨.operation .getCount, 0, []⟩ = some .readCntr ∧ Instr.readCntr.wf = true ∧
    Context.current ⟨.operation .initializeDefaults, 2, []⟩ = some (.writeDtr [0, 0, 0, 0]) ∧
    2 + 1 < (Job.program (.operation .initializeDefaults)).length ∧
    (running ⟨.operation .getCount, 0, []⟩ [.hang]).answerAt 0 = .hang ∧
    (running ⟨.operation .getCount, 0, []⟩ [broken]).answerAt 0 = broken ∧
    (running ⟨.operation .initializeDefaults, 2, []⟩ [done]).answerAt 0 = done :=
  ⟨⟨rfl, rfl⟩, by decide, by decide, by decide, by decide, by decide, by decide, by decide⟩

/-- EveryOperationEndsIfTransportReturns: the invariant, a free engine and four answers, with a request and with an operation in
flight. -/
theorem test_witness_ends :
    State.Inv (running ⟨.operation .getCount, 1, [0, 0, 0, 1]⟩ [done, done, done, broken]) ∧
    State.Inv (asked (.operation .getCount) [done, done, done, broken]) where
  left := { trace_legal := by decide, context_ok := by intro c h; cases h; decide, link_ok := .inl rfl,
            responses_legal := by decide, codec_ok := by decide }
  right := { trace_legal := by decide, context_ok := (by intro c h; cases h), link_ok := .inl rfl,
             responses_legal := by decide, codec_ok := by decide }

theorem test_witness_ends_premises :
    (running ⟨.operation .getCount, 1, [0, 0, 0, 1]⟩ [done, done, done, broken]).Free ∧
    (running ⟨.operation .getCount, 1, [0, 0, 0, 1]⟩ [done, done, done, broken]).TransportReturns 4 ∧
    (asked (.operation .getCount) [done, done, done, broken]).Free ∧
    (asked (.operation .getCount) [done, done, done, broken]).TransportReturns 4 :=
  ⟨⟨rfl, rfl⟩, show ∀ k < 4, _ by decide, ⟨rfl, rfl⟩, show ∀ k < 4, _ by decide⟩

end Sys2Proof.Machine.Tests
end

section
/-! PROOFS. The family 30_encoding: the field primitives of R82 as arithmetic on byte values, and the layout of the Mdr0 byte. -/

namespace Sys2Proof

/-- R82: `(1 << n) - 1` in a byte is the mask of the `n` low bits, `n = 8` (where the shift drops the 1) included. -/
theorem toNat_lowMask : ∀ n ≤ 8, ((1#8 <<< n) - 1#8).toNat = 2 ^ n - 1 := by decide

/-- R82: for a field inside the byte the mask of `extract` is a remainder. -/
theorem toNat_extract (b : Byte) {hi : Nat} (lo : Nat) (hhi : hi < 8) :
    (extract b hi lo).toNat = b.toNat / 2 ^ lo % 2 ^ (hi - lo + 1) := by
  rw [extract, BitVec.toNat_setWidth, BitVec.toNat_and, toNat_lowMask _ (by omega), Nat.and_two_pow_sub_one_eq_mod,
    Nat.mod_mod, BitVec.toNat_ushiftRight, Nat.shiftRight_eq_div_pow]

/-- A field is a code when the digits of the byte's value at its place are the code's value. -/
theorem extract_eq_of_toNat {b : Byte} {hi lo : Nat} {code : BitVec (hi - lo + 1)} (hhi : hi < 8)
    (h : b.toNat / 2 ^ lo % 2 ^ (hi - lo + 1) = code.toNat) : extract b hi lo = code :=
  BitVec.eq_of_toNat_eq (by rw [toNat_extract b lo hhi, h])

/-- A placed code stays below the bit after its field. -/
theorem toNat_mul_two_pow_lt {n : Nat} (code : BitVec n) (lo : Nat) : code.toNat * 2 ^ lo < 2 ^ (lo + n) := by
  rw [Nat.add_comm, Nat.pow_add]
  exact Nat.mul_lt_mul_of_pos_right code.isLt (Nat.two_pow_pos lo)

/-- R82: a code that fits into the byte is placed by multiplication. -/
theorem toNat_place {n lo : Nat} (code : BitVec n) (hfit : lo + n ≤ 8) :
    (place code lo).toNat = code.toNat * 2 ^ lo := by
  have hcode : code.toNat < 2 ^ 8 := code.isLt.trans_le (Nat.pow_le_pow_right (by decide) (by omega))
  have hplaced : code.toNat * 2 ^ lo < 2 ^ 8 :=
    (toNat_mul_two_pow_lt code lo).trans_le (Nat.pow_le_pow_right (by decide) hfit)
  rw [place, BitVec.toNat_shiftLeft, BitVec.toNat_setWidth, Nat.mod_eq_of_lt hcode, Nat.shiftLeft_eq,
    Nat.mod_eq_of_lt hplaced]

/-- Fields that do not overlap: into a byte that holds nothing below bit `lo + n`, or-ing a placed code adds its value. -/
theorem toNat_or_place {n lo : Nat} {x : Byte} (code : BitVec n) (hx : 2 ^ (lo + n) ∣ x.toNat) (hfit : lo + n ≤ 8) :
    (x ||| place code lo).toNat = x.toNat + code.toNat * 2 ^ lo := by
  obtain ⟨q, hq⟩ := hx
  rw [BitVec.toNat_or, toNat_place code hfit, hq, Nat.two_pow_add_eq_or_of_lt (toNat_mul_two_pow_lt code lo)]

/-- R63: the value of the Mdr0 byte. -/
theorem Mdr0.toNat_encode (c : Mdr0Config) :
    (Mdr0.encode c).toNat =
      (FilterClock.encode c.filterClock).toNat * 2 ^ 7 + (BoolCode.encode c.indexInverted).toNat * 2 ^ 6 +
      (IndexMode.encode c.indexMode).toNat * 2 ^ 4 + (CycleMode.encode c.cycleMode).toNat * 2 ^ 2 +
      (QuadMode.encode c.quadMode).toNat := by
  have h7 := toNat_place (lo := 7) (FilterClock.encode c.filterClock) (by decide)
  have h6 := toNat_or_place (lo := 6) (BoolCode.encode c.indexInverted) (by rw [h7]; omega) (by decide)
  have h4 := toNat_or_place (lo := 4) (IndexMode.encode c.indexMode) (by rw [h6, h7]; omega) (by decide)
  have h2 := toNat_or_place (lo := 2) (CycleMode.encode c.cycleMode) (by rw [h4, h6, h7]; omega) (by decide)
  have h0 := toNat_or_place (lo := 0) (QuadMode.encode c.quadMode) (by rw [h2, h4, h6, h7]; omega) (by decide)
  rw [Mdr0.encode, h0, h2, h4, h6, h7, pow_zero, Nat.mul_one]

/-- Settles O7: the byte's value is the sum of the placed codes, each within its width, so each field is a digit of it. -/
theorem mdr0ByteLayout : Obligations.Mdr0ByteLayout := by
  intro c
  have hvalue := Mdr0.toNat_encode c
  have hquad := (QuadMode.encode c.quadMode).isLt
  have hcycle := (CycleMode.encode c.cycleMode).isLt
  have hindex := (IndexMode.encode c.indexMode).isLt
  have hinverted := (BoolCode.encode c.indexInverted).isLt
  have hclock := (FilterClock.encode c.filterClock).isLt
  refine ⟨?_, ?_, ?_, ?_, ?_, hvalue⟩ <;> exact extract_eq_of_toNat (by decide) (by omega)

end Sys2Proof
end

section
/-! PROOFS. The family 40_codec_primitives: the 2-bit mode codecs of R87, R88, R89 and R91 as bijections. -/

namespace Sys2Proof

/-- A decoder that inverts an encoder reaching every code answers `Ok(m)` exactly on the code of `m`; it refuses no code. -/
theorem decode_eq_ok_iff_encode_eq {α : Type} {n : Nat} {encode : α → BitVec n}
    {decode : BitVec n → Result DecodeFailure α} (hinv : ∀ m, decode (encode m) = .ok m)
    (hsurj : Function.Surjective encode) (c : BitVec n) (m : α) : decode c = .ok m ↔ encode m = c := by
  obtain ⟨m', rfl⟩ := hsurj c
  rw [hinv, Result.ok.injEq]
  exact ⟨fun h => h ▸ rfl, fun h => Result.ok.inj (by rw [← hinv m', ← h, hinv])⟩

/-- An encoder whose table pairs a value with each of the four 2-bit codes reaches every code. -/
theorem surjective_of_four_codes {α : Type} {encode : α → BitVec 2} {m₀ m₁ m₂ m₃ : α} (h₀ : encode m₀ = 0b00#2)
    (h₁ : encode m₁ = 0b01#2) (h₂ : encode m₂ = 0b10#2) (h₃ : encode m₃ = 0b11#2) : Function.Surjective encode := by
  intro c
  have hcodes : ∀ c : BitVec 2, c = 0b00#2 ∨ c = 0b01#2 ∨ c = 0b10#2 ∨ c = 0b11#2 := by decide
  obtain rfl | rfl | rfl | rfl := hcodes c
  exacts [⟨m₀, h₀⟩, ⟨m₁, h₁⟩, ⟨m₂, h₂⟩, ⟨m₃, h₃⟩]

/-- R87. -/
@[simp] theorem QuadMode.decode_encode (m : QuadMode) : QuadMode.decode (QuadMode.encode m) = .ok m := by
  cases m <;> rfl

/-- R88. -/
@[simp] theorem CycleMode.decode_encode (m : CycleMode) : CycleMode.decode (CycleMode.encode m) = .ok m := by
  cases m <;> rfl

/-- R89. -/
@[simp] theorem IndexMode.decode_encode (m : IndexMode) : IndexMode.decode (IndexMode.encode m) = .ok m := by
  cases m <;> rfl

/-- R91. -/
@[simp] theorem CounterMode.decode_encode (m : CounterMode) : CounterMode.decode (CounterMode.encode m) = .ok m := by
  cases m <;> rfl

/-- R87, both directions. -/
theorem QuadMode.decode_eq_ok_iff (c : BitVec 2) (m : QuadMode) :
    QuadMode.decode c = .ok m ↔ QuadMode.encode m = c :=
  decode_eq_ok_iff_encode_eq QuadMode.decode_encode
    (surjective_of_four_codes (m₀ := .nonQuad) (m₁ := .quad1x) (m₂ := .quad2x) (m₃ := .quad4x) rfl rfl rfl rfl) c m

/-- R88, both directions. -/
theorem CycleMode.decode_eq_ok_iff (c : BitVec 2) (m : CycleMode) :
    CycleMode.decode c = .ok m ↔ CycleMode.encode m = c :=
  decode_eq_ok_iff_encode_eq CycleMode.decode_encode
    (surjective_of_four_codes (m₀ := .freeRunning) (m₁ := .singleCycle) (m₂ := .rangeLimit) (m₃ := .moduloN)
      rfl rfl rfl rfl) c m

/-- R89, both directions. -/
theorem IndexMode.decode_eq_ok_iff (c : BitVec 2) (m : IndexMode) :
    IndexMode.decode c = .ok m ↔ IndexMode.encode m = c :=
  decode_eq_ok_iff_encode_eq IndexMode.decode_encode
    (surjective_of_four_codes (m₀ := .disableIndex) (m₁ := .loadCntr) (m₂ := .clearCntr) (m₃ := .loadOtr)
      rfl rfl rfl rfl) c m

/-- R91, both directions. -/
theorem CounterMode.decode_eq_ok_iff (c : BitVec 2) (m : CounterMode) :
    CounterMode.decode c = .ok m ↔ CounterMode.encode m = c :=
  decode_eq_ok_iff_encode_eq CounterMode.decode_encode
    (surjective_of_four_codes (m₀ := .byte4) (m₁ := .byte3) (m₂ := .byte2) (m₃ := .byte1) rfl rfl rfl rfl) c m

/-- R70, without the truncation of subtraction: a 2-bit code is below 4. -/
theorem CounterMode.significantBytes_add_code (m : CounterMode) :
    CounterMode.significantBytes m + (CounterMode.encode m).toNat = 4 :=
  Nat.sub_add_cancel (CounterMode.encode m).isLt.le

/-- Settles O2: the tables by evaluation, the two directions from each decoder inverting an encoder that reaches every code. -/
theorem modeCodecsAreBijections : Obligations.ModeCodecsAreBijections :=
  ⟨⟨rfl, rfl, rfl, rfl, QuadMode.decode_eq_ok_iff⟩, ⟨rfl, rfl, rfl, rfl, CycleMode.decode_eq_ok_iff⟩,
    ⟨rfl, rfl, rfl, rfl, IndexMode.decode_eq_ok_iff⟩,
    rfl, rfl, rfl, rfl, CounterMode.decode_eq_ok_iff, CounterMode.significantBytes_add_code⟩

end Sys2Proof
end

section
/-! PROOFS. The family 41_header_codec: each field of an encoded header is the code placed there (R95), so decoding gives the
pair back (R98). -/

namespace Sys2Proof

/-- R83, R84: the code 111 that `decode` also reads as `None` (decision D5) is no target's encoding. -/
@[simp] theorem Target.decode_encode (t : RegisterTarget) : Target.decode (Target.encode t) = .ok t := by
  cases t <;> rfl

/-- R85, R86. -/
@[simp] theorem Action.decode_encode (a : RegisterAction) : Action.decode (Action.encode a) = .ok a := by
  cases a <;> rfl

/-- R95: the value of the header byte; its digits below bit 3 are zero. -/
theorem Header.toNat_encode (h : InstructionHeader) :
    (Header.encode h).toNat = (Action.encode h.action).toNat * 2 ^ 6 + (Target.encode h.target).toNat * 2 ^ 3 := by
  have haction := toNat_place (lo := 6) (Action.encode h.action) (by decide)
  rw [Header.encode, toNat_or_place _ (by rw [haction]; omega) (by decide), haction]

/-- R95: bits 5 to 3 hold the target's code. -/
@[simp] theorem Header.extract_target_encode (h : InstructionHeader) :
    extract (Header.encode h) 5 3 = Target.encode h.target := by
  have hvalue := Header.toNat_encode h
  have htarget := (Target.encode h.target).isLt
  exact extract_eq_of_toNat (by decide) (by omega)

/-- R95: bits 7 to 6 hold the action's code. -/
@[simp] theorem Header.extract_action_encode (h : InstructionHeader) :
    extract (Header.encode h) 7 6 = Action.encode h.action := by
  have hvalue := Header.toNat_encode h
  have htarget := (Target.encode h.target).isLt
  have haction := (Action.encode h.action).isLt
  exact extract_eq_of_toNat (by decide) (by omega)

/-- R96: a header decodes to the pair its two fields decode to. -/
theorem Header.decode_eq_ok {b : Byte} {t : RegisterTarget} {a : RegisterAction}
    (ht : Target.decode (extract b 5 3) = .ok t) (ha : Action.decode (extract b 7 6) = .ok a) :
    Header.decode b = .ok ⟨t, a⟩ := by
  rw [Header.decode, ht, ha, Result.bind_ok, Result.bind_ok]

/-- R98. -/
@[simp] theorem Header.decode_encode (h : InstructionHeader) : Header.decode (Header.encode h) = .ok h :=
  Header.decode_eq_ok (by rw [Header.extract_target_encode, Target.decode_encode])
    (by rw [Header.extract_action_encode, Action.decode_encode])

/-- Settles O5: each field is read back as the code placed there, and each field's decoder inverts its encoder. -/
theorem headerRoundTrip : Obligations.HeaderRoundTrip := fun t a => Header.decode_encode ⟨t, a⟩

end Sys2Proof
end

section
/-! PROOFS. The family 43_status_codec: each 1-bit codec answers `Ok` on both codes (R92 to R94), so the status decoder answers
`Ok` on every byte, with the snapshot of R109. -/

namespace Sys2Proof

/-- R82: a field of one bit holds that bit. -/
theorem getLsbD_extract_bit (b : Byte) (i : Nat) : (extract b i i).getLsbD 0 = b.getLsbD i := by
  have hmask : ((1#8 <<< (i - i + 1)) - 1#8) = 1#8 := by rw [Nat.sub_self]; rfl
  rw [extract, hmask]
  simp

/-- R92. -/
theorem BoolCode.decode_eq_ok {c : BitVec 1} {v : Bool} (h : c.getLsbD 0 = v) : BoolCode.decode c = .ok v := by
  subst h; revert c; decide

/-- R93. -/
theorem SignCode.decode_eq_ok {c : BitVec 1} {v : Bool} (h : c.getLsbD 0 = v) :
    SignCode.decode c = .ok (if v then .negative else .positive) := by
  subst h; revert c; decide

/-- R94. -/
theorem DirectionCode.decode_eq_ok {c : BitVec 1} {v : Bool} (h : c.getLsbD 0 = v) :
    DirectionCode.decode c = .ok (if v then .up else .down) := by
  subst h; revert c; decide

/-- R109: the snapshot a byte holds, each field read from its own bit (decision D1). -/
def StatusSnapshot.ofByte (b : Byte) : StatusSnapshot where
  sign := if b.getLsbD 0 then .negative else .positive
  countDirection := if b.getLsbD 1 then .up else .down
  powerLoss := b.getLsbD 2
  countingEnabled := b.getLsbD 3
  index := b.getLsbD 4
  compare := b.getLsbD 5
  borrow := b.getLsbD 6
  carry := b.getLsbD 7

/-- R109, R110: none of the eight field decoders ends the computation. -/
theorem Str.decode_eq_ok (b : Byte) : Str.decode b = .ok (StatusSnapshot.ofByte b) := by
  rw [Str.decode, SignCode.decode_eq_ok (getLsbD_extract_bit b 0), Result.bind_ok,
    DirectionCode.decode_eq_ok (getLsbD_extract_bit b 1), Result.bind_ok,
    BoolCode.decode_eq_ok (getLsbD_extract_bit b 2), Result.bind_ok,
    BoolCode.decode_eq_ok (getLsbD_extract_bit b 3), Result.bind_ok,
    BoolCode.decode_eq_ok (getLsbD_extract_bit b 4), Result.bind_ok,
    BoolCode.decode_eq_ok (getLsbD_extract_bit b 5), Result.bind_ok,
    BoolCode.decode_eq_ok (getLsbD_extract_bit b 6), Result.bind_ok,
    BoolCode.decode_eq_ok (getLsbD_extract_bit b 7), Result.bind_ok, StatusSnapshot.ofByte]

/-- Settles O10: the snapshot is the one whose fields are the byte's bits. -/
theorem strDecodeAlwaysSucceeds : Obligations.StrDecodeAlwaysSucceeds := fun b => ⟨.ofByte b, Str.decode_eq_ok b⟩

end Sys2Proof
end

section
/-! PROOFS. The family 44_integer_reconstruction: the left fold of R114 as the big-endian sum and its bound, and the sign of R116
on a magnitude that fits 64 bits. -/

namespace Sys2Proof

/-- R114: the value on the domain. -/
theorem bytesToUnsigned_of_length_le {s : List Byte} (h : s.length ≤ 4) :
    bytesToUnsigned s = some (foldBigEndian 0 s) :=
  if_pos h

/-- R114: the model's recursion is the library's left fold. -/
theorem foldBigEndian_eq_foldl (s : List Byte) (acc : Nat) :
    foldBigEndian acc s = s.foldl (fun acc b => (acc <<< 8) ||| b.toNat) acc := by
  induction s generalizing acc with
  | nil => rfl
  | cons b rest ih => rw [foldBigEndian, ih, List.foldl_cons]

/-- R114: the first byte weighs 256 for each byte after it. -/
theorem foldBigEndian_zero_cons (b : Byte) (rest : List Byte) :
    foldBigEndian 0 (b :: rest) = b.toNat * 256 ^ rest.length + foldBigEndian 0 rest := by
  rw [foldBigEndian_cons, foldBigEndian_acc, Nat.zero_mul, Nat.zero_add]

/-- R114: byte `i` of `n` is shifted past the `n - 1 - i` bytes after it. -/
theorem foldBigEndian_eq_sum (s : List Byte) :
    foldBigEndian 0 s = ∑ i : Fin s.length, (s[i]).toNat <<< (8 * (s.length - 1 - i)) := by
  induction s with
  | nil => rfl
  | cons b rest ih =>
    have hweight (i : Fin rest.length) : rest.length - (i + 1) = rest.length - 1 - i := by omega
    rw [foldBigEndian_zero_cons, ih]
    refine Eq.trans ?_ (Fin.sum_univ_succ _).symm
    simp [hweight, Nat.shiftLeft_eq, pow_mul]

/-- R114: the bound in bits. -/
theorem foldBigEndian_lt_two_pow (s : List Byte) : foldBigEndian 0 s < 2 ^ (8 * s.length) := by
  rw [pow_mul]; exact foldBigEndian_lt s

/-- Settles O12: the value is the fold, which is the big-endian sum and stays below `2 ^ (8 * n)`. -/
theorem bytesToUnsignedIsBigEndian : Obligations.BytesToUnsignedIsBigEndian := fun s hs =>
  ⟨_, bytesToUnsigned_of_length_le hs, foldBigEndian_eq_sum s, foldBigEndian_eq_foldl s 0,
    Nat.le_sub_one_of_lt (foldBigEndian_lt_two_pow s)⟩

/-- R117 (a): a magnitude on the domain is below `2 ^ 32`. -/
theorem foldBigEndian_lt_of_length_le {s : List Byte} (h : s.length ≤ 4) : foldBigEndian 0 s < 2 ^ 32 :=
  (foldBigEndian_lt_two_pow s).trans_le (Nat.pow_le_pow_right (by decide) (by omega))

/-- R116: the magnitude with its sign, as an exact integer. -/
def signedMagnitude (magnitude : Nat) (sign : Sign) : Int :=
  if sign = .negative then -(magnitude : Int) else (magnitude : Int)

/-- R116: the value on the domain. -/
theorem reconstruct_of_length_le {s : List Byte} (sign : Sign) (h : s.length ≤ 4) :
    reconstruct s sign = some (BitVec.ofInt 64 (signedMagnitude (foldBigEndian 0 s) sign)) := by
  rw [reconstruct, bytesToUnsigned_of_length_le h]
  cases sign <;> rfl

/-- R117 (a), (b): a magnitude below `2 ^ 32` keeps its value in 64 bits with either sign. -/
theorem toInt_ofInt_signedMagnitude {m : Nat} (sign : Sign) (h : m < 2 ^ 32) :
    (BitVec.ofInt 64 (signedMagnitude m sign)).toInt = signedMagnitude m sign := by
  obtain ⟨hlow, hhigh⟩ : -2 ^ 63 ≤ signedMagnitude m sign ∧ signedMagnitude m sign < 2 ^ 63 := by
    rw [signedMagnitude]; split <;> omega
  exact BitVec.toInt_ofInt_eq_self (by decide) hlow hhigh

/-- Settles O14: the pattern is the signed magnitude's, which 64 bits hold exactly. -/
theorem reconstructIsSignAndMagnitude : Obligations.ReconstructIsSignAndMagnitude := fun _ sign hlen =>
  ⟨_, _, bytesToUnsigned_of_length_le hlen, reconstruct_of_length_le sign hlen,
    toInt_ofInt_signedMagnitude sign (foldBigEndian_lt_of_length_le hlen)⟩

end Sys2Proof
end

section
/-! PROOFS. The family 45_wire_instructions: a well-formed instruction on a free interface makes its one invocation (R120), so what
a register's instruction does follows from its primitive and frame, and from the answer. -/

namespace Sys2Proof.Machine

open Sys2Proof

/-- R120: the next state of a well-formed instruction on a free interface, whatever the transport answers. -/
theorem exec_eq_sent {s : State} {i : Instr} {p : Primitive} {frame : List Byte} (hfree : s.link.blocked = false)
    (hwf : i.wf = true) (hinv : invocationOf i.header i.payload = ⟨p, frame⟩) :
    exec i s = .next (s.sent p frame (busResult p (s.answerAt 0)) (linkAfter ⟨p, frame⟩ (s.answerAt 0))) := by
  have hfits : payloadFits i.header.action i.payload = true := (wf_eq_payloadFits i).symm.trans hwf
  rw [exec_eq_issue, issue_fits hfree hfits, hinv]
  rfl

/-- R38, R54, R120: an instruction that writes gets nothing from a write that returns, and the transport's error from one that
fails. -/
theorem exec_of_writeBytes {s : State} {i : Instr} {frame : List Byte} (hfree : s.link.blocked = false)
    (hwf : i.wf = true) (hinv : invocationOf i.header i.payload = ⟨.writeBytes, frame⟩) :
    (∀ r, s.answerAt 0 = .success r →
      exec i s = .next (s.sent .writeBytes frame .done (.replied (.ok [])))) ∧
    (∀ e, s.answerAt 0 = .failure e →
      exec i s = .next (s.sent .writeBytes frame (.failed e) (.replied (.err (.transport e))))) := by
  have hexec := exec_eq_sent hfree hwf hinv
  constructor
  · intro r hr; rw [hexec, hr]; rfl
  · intro e he; rw [hexec, he]; rfl

/-- R39, R54, R154: an instruction that exchanges bytes gets `resp[1..4]` of a transfer that returns, and the transport's error
from one that fails. -/
theorem exec_of_transferBytes {s : State} {i : Instr} {frame : List Byte} (hfree : s.link.blocked = false)
    (hwf : i.wf = true) (hinv : invocationOf i.header i.payload = ⟨.transferBytes, frame⟩) :
    (∀ r, s.answerAt 0 = .success r →
      exec i s = .next (s.sent .transferBytes frame (.captured r) (.replied (.ok [r.d1, r.d2, r.d3, r.d4])))) ∧
    (∀ e, s.answerAt 0 = .failure e →
      exec i s = .next (s.sent .transferBytes frame (.failed e) (.replied (.err (.transport e))))) := by
  have hexec := exec_eq_sent hfree hwf hinv
  constructor
  · intro r hr; rw [hexec, hr]; rfl
  · intro e he; rw [hexec, he]; rfl

/-- R57, R120: the payload an instruction drops is not in its frame either. -/
theorem invocationOf_ofHeader (h : InstructionHeader) (data : List Byte) :
    invocationOf (Instr.ofHeader h data).header (Instr.ofHeader h data).payload = invocationOf h data := by
  obtain ⟨t, a⟩ := h
  rw [ofHeader_header, ofHeader_payload]
  cases a <;> rfl

/-- R75: an action's rows of the opcode map on the six registers: the instruction and the byte its header encodes to. -/
def registerRows (a : RegisterAction) (data : List Byte) : List (Instr × Byte) :=
  [RegisterTarget.mdr0, .mdr1, .dtr, .cntr, .otr, .str].map fun t => (Instr.ofHeader ⟨t, a⟩ data, Header.encode ⟨t, a⟩)

theorem exists_target_of_mem_registerRows {a : RegisterAction} {data : List Byte} {i : Instr} {b : Byte}
    (h : (i, b) ∈ registerRows a data) : ∃ t, Instr.ofHeader ⟨t, a⟩ data = i ∧ Header.encode ⟨t, a⟩ = b := by
  obtain ⟨t, -, hrow⟩ := List.mem_map.mp h
  exact ⟨t, Prod.mk.inj hrow⟩

/-- Settles O17: each register's Clear is a write of the one byte its header encodes to. -/
theorem clearRegisterSendsItsHeader : Obligations.ClearRegisterSendsItsHeader := by
  intro s i b hfree hrow
  obtain ⟨t, rfl, rfl⟩ := exists_target_of_mem_registerRows (a := .clear) (data := []) hrow
  exact exec_of_writeBytes hfree (ofHeader_wf rfl) (invocationOf_ofHeader _ _)

/-- Settles O18: each register's Read is a transfer of the byte its header encodes to and four zero bytes. -/
theorem readRegisterExchangesFiveBytes : Obligations.ReadRegisterExchangesFiveBytes := by
  intro s i b hfree hrow
  obtain ⟨t, rfl, rfl⟩ := exists_target_of_mem_registerRows (a := .read) (data := []) hrow
  exact exec_of_transferBytes hfree (ofHeader_wf rfl) (invocationOf_ofHeader _ _)

/-- Settles O19: each register's Write, whose payload fits, is a write of the byte its header encodes to and the payload. -/
theorem writeRegisterSendsHeaderAndPayload : Obligations.WriteRegisterSendsHeaderAndPayload := by
  intro s i b data hfree hlen hrow
  obtain ⟨t, rfl, rfl⟩ := exists_target_of_mem_registerRows (a := .write) (data := data) hrow
  exact exec_of_writeBytes hfree (ofHeader_wf (decide_eq_true hlen)) (invocationOf_ofHeader _ _)

/-- Settles O20: each register's Load is a write of the one byte its header encodes to. -/
theorem loadRegisterSendsItsHeader : Obligations.LoadRegisterSendsItsHeader := by
  intro s i b hfree hrow
  obtain ⟨t, rfl, rfl⟩ := exists_target_of_mem_registerRows (a := .load) (data := []) hrow
  exact exec_of_writeBytes hfree (ofHeader_wf rfl) (invocationOf_ofHeader _ _)

end Sys2Proof.Machine
end

section
/-! PROOFS. The family 46_driver_operations: an operation with one wire instruction makes that instruction's invocation and gives
its response in one step (R153 to R159), and every step carries along what was observed before it (R164). -/

namespace Sys2Proof.Machine

open Sys2Proof

/-! A request the block is ready for: turned away for its payload (R168), or its first wire instruction issued and settled. -/

section Accept

variable {s : State} {o : Operation} {rest : List Request}

/-- R165, R168: the payload check decides between the operation's first step and its refusal. -/
theorem step_ready_operation (hready : s.Ready (.operation o) rest) :
    step s = if Operation.payloadOk o then runCurrent (Context.start (.operation o)) (s.setRequests rest)
      else .next (respond (.err .payloadTooBig) (s.setRequests rest)) := by
  obtain ⟨hfree, hidle, hrequests⟩ := hready
  rw [step_ready ⟨hfree, hidle, hrequests⟩, accept, hrequests]

/-- R168: a payload that breaks its operation's size contract is answered with no invocation. -/
theorem step_of_payloadTooBig (hready : s.Ready (.operation o) rest) (hbig : Operation.payloadOk o = false) :
    step s = .next (s.answered rest [] (.err .payloadTooBig)) := by
  rw [step_ready_operation hready]
  simp [hbig, respond, State.setRequests, State.answered]

variable {i : Instr} {is : List Instr} {p : Primitive} {frame : List Byte}

/-- R165: the first step of an operation whose payload fits is its first instruction's invocation, settled. -/
theorem step_of_payloadOk (hready : s.Ready (.operation o) rest) (hok : Operation.payloadOk o = true)
    (hprogram : Operation.program o = i :: is) :
    step s = .next (settle (Context.start (.operation o)) (invoke (invocationOf i.header i.payload)
      ((s.setRequests rest).setContext (some (Context.start (.operation o)))))) := by
  have hcurrent : Context.current (Context.start (.operation o)) = some i := by
    simp [Context.current, Context.start, Job.program, hprogram]
  have hwf : i.wf = true := program_wf (j := .operation o) hok i (by simp [Job.program, hprogram])
  rw [step_ready_operation hready, if_pos hok]
  obtain ⟨⟨-, hunblocked⟩, -⟩ := hready
  exact runCurrent_fits hcurrent hwf hunblocked

/-- A response after an accepted request's one invocation leaves that request answered. -/
theorem respond_invoke_eq_answered (c : Context) (inv : Invocation) (r : Response) :
    respond r (invoke inv ((s.setRequests rest).setContext (some c))) =
      s.answered rest [⟨inv, busResult inv.primitive (s.answerAt 0)⟩] r := by
  simp [respond, invoke, State.setRequests, State.setContext, State.answered, State.answerAt]

/-- R54, R162: a failure of the first invocation ends the operation there. -/
theorem step_of_failure (hready : s.Ready (.operation o) rest) (hok : Operation.payloadOk o = true)
    (hprogram : Operation.program o = i :: is) (hinv : invocationOf i.header i.payload = ⟨p, frame⟩)
    {e : TransportError} (he : s.answerAt 0 = .failure e) :
    step s = .next (s.answered rest [⟨⟨p, frame⟩, .failed e⟩] (.err (.transport e))) := by
  rw [step_of_payloadOk hready hok hprogram, hinv, settle_err (e := .transport e) (by simp [he, linkAfter]),
    respond_invoke_eq_answered, he, busResult]

/-- R50 (c), R166: a success of an operation's only invocation gives the response of the bytes it handed back. -/
theorem step_of_success (hready : s.Ready (.operation o) rest) (hok : Operation.payloadOk o = true)
    (hprogram : Operation.program o = [i]) (hinv : invocationOf i.header i.payload = ⟨p, frame⟩)
    {r : ReadResponse} (hr : s.answerAt 0 = .success r) {bytes : List Byte}
    (hlink : linkAfter ⟨p, frame⟩ (.success r) = .replied (.ok bytes)) {resp : Response}
    (hfinish : Job.finish (.operation o) bytes = some resp) :
    step s = .next (s.answered rest [⟨⟨p, frame⟩, busResult p (.success r)⟩] resp) := by
  have hlast : ¬ (Context.start (.operation o)).index + 1 < (Job.program (.operation o)).length := by
    simp [Context.start, Job.program, hprogram]
  rw [step_of_payloadOk hready hok hprogram, hinv, settle_ok (bytes := bytes) (by simp [hr, hlink]),
    advance_last hlast hfinish, respond_invoke_eq_answered, hr]

/-- R38, R166: an operation that is one write. -/
theorem step_of_one_write (hready : s.Ready (.operation o) rest) (hok : Operation.payloadOk o = true)
    (hprogram : Operation.program o = [i]) (hinv : invocationOf i.header i.payload = ⟨.writeBytes, frame⟩)
    {resp : Response} (hfinish : Job.finish (.operation o) [] = some resp) :
    (∀ r, s.answerAt 0 = .success r → step s = .next (s.answered rest [⟨⟨.writeBytes, frame⟩, .done⟩] resp)) ∧
    (∀ e, s.answerAt 0 = .failure e →
      step s = .next (s.answered rest [⟨⟨.writeBytes, frame⟩, .failed e⟩] (.err (.transport e)))) :=
  ⟨fun _ hr => step_of_success hready hok hprogram hinv hr rfl hfinish,
    fun _ he => step_of_failure hready hok hprogram hinv he⟩

end Accept

/-- Settles O37: above 4 bytes the payload check fails; else the operation is the one Write of its target. -/
theorem writeRegisterOperation : Obligations.WriteRegisterOperation := fun _ _ _ _ hready =>
  ⟨fun hlong => step_of_payloadTooBig hready (decide_eq_false (Nat.not_le.mpr hlong)),
    fun hshort => step_of_one_write hready (decide_eq_true hshort) rfl (invocationOf_ofHeader _ _) rfl⟩

/-- Settles O38: the operation is the one Read of its target, and its response the 4 bytes handed back. -/
theorem readRegisterOperation : Obligations.ReadRegisterOperation := fun _ _ _ hready =>
  ⟨fun _ hr => step_of_success hready rfl rfl (invocationOf_ofHeader _ _) hr rfl rfl,
    fun _ he => step_of_failure hready rfl rfl (invocationOf_ofHeader _ _) he⟩

/-- R155: the size contract of Clear and Load. -/
theorem payloadFits_of_clear_or_load {a : RegisterAction} (ha : a = .clear ∨ a = .load) (data : List Byte) :
    payloadFits a data = data.isEmpty := by
  obtain rfl | rfl := ha <;> rfl

/-- R40, R57: Clear and Load write the header byte alone. -/
theorem invocationOf_of_clear_or_load {h : InstructionHeader} (ha : h.action = .clear ∨ h.action = .load)
    (data : List Byte) : invocationOf h data = ⟨.writeBytes, [Header.encode h]⟩ := by
  obtain ha | ha := ha <;> simp [invocationOf, frameOf, primitiveOf, frameTail, ha]

/-- Settles O39: the payload check asks for no bytes; the operation is then the one write of its header. -/
theorem actClearOrLoadOperation : Obligations.ActClearOrLoadOperation := by
  intro s h data rest hready haction
  have hcheck : Operation.payloadOk (.act h data) = data.isEmpty := payloadFits_of_clear_or_load haction data
  constructor
  · intro hlen
    exact step_of_payloadTooBig hready (by simpa [hcheck] using hlen)
  · intro hlen
    exact step_of_one_write hready (by simpa [hcheck] using hlen) rfl
      ((invocationOf_ofHeader h data).trans (invocationOf_of_clear_or_load haction data)) rfl

/-- Settles O40: above 4 bytes the payload check fails; else the operation is the one Write of its header. -/
theorem actWriteOperation : Obligations.ActWriteOperation := fun _ _ _ _ hready =>
  ⟨fun hlong => step_of_payloadTooBig hready (decide_eq_false (Nat.not_le.mpr hlong)),
    fun hshort => step_of_one_write hready (decide_eq_true hshort) rfl (invocationOf_ofHeader _ _) rfl⟩

/-- Settles O42: the operation is the one Read of Str, and every byte it can capture decodes (R110). -/
theorem getStatusOperation : Obligations.GetStatusOperation := by
  intro s rest hready
  constructor
  · intro r hr
    have hdecode := Str.decode_eq_ok r.d4
    have hfinish : Job.finish (.operation .getStatus) (responseData r) = some (.ok (.status (.ofByte r.d4))) := by
      simp [Job.finish, responseData, statusResponse, hdecode]
    exact ⟨_, hdecode, step_of_success hready rfl rfl rfl hr rfl hfinish⟩
  · intro e he
    exact step_of_failure hready rfl rfl rfl he

/-! Each part of a step commutes with putting a longer past in front (R164): it reads none of the three observed lists, and what
it adds comes behind them. -/

section Past

variable (s : State) (tr : List Event) (rs : List Response) (vs : List CodecValue)

@[simp] theorem mapNext_next (f : State → State) (t : State) : mapNext f (.next t) = .next (f t) := rfl
@[simp] theorem mapNext_fault (f : State → State) (e : Fault) : mapNext f (.fault e) = .fault e := rfl
@[simp] theorem mapNext_refused (f : State → State) (e : Refusal) : mapNext f (.refused e) = .refused e := rfl

@[simp] theorem answerAt_withPast (k : Nat) : (s.withPast tr rs vs).answerAt k = s.answerAt k := rfl

@[simp] theorem setRequests_withPast (reqs : List Request) :
    (s.withPast tr rs vs).setRequests reqs = (s.setRequests reqs).withPast tr rs vs := rfl

@[simp] theorem setContext_withPast (c : Option Context) :
    (s.withPast tr rs vs).setContext c = (s.setContext c).withPast tr rs vs := rfl

@[simp] theorem setLink_withPast (l : Link) :
    (s.withPast tr rs vs).setLink l = (s.setLink l).withPast tr rs vs := rfl

@[simp] theorem respond_withPast (r : Response) :
    respond r (s.withPast tr rs vs) = (respond r s).withPast tr rs vs := by
  simp [respond, State.withPast]

@[simp] theorem invoke_withPast (inv : Invocation) :
    invoke inv (s.withPast tr rs vs) = (invoke inv s).withPast tr rs vs := by
  rw [invoke, answerAt_withPast]
  simp [invoke, State.withPast]

/-- The interface and the payload check decide what is issued, and the past is in neither. -/
theorem issue_withPast (h : InstructionHeader) (data : List Byte) :
    issue h data (s.withPast tr rs vs) = mapNext (fun t => t.withPast tr rs vs) (issue h data s) := by
  cases hb : s.link.blocked with
  | true => rw [issue_blocked hb, issue_blocked (s := s.withPast tr rs vs) hb, mapNext_next]
  | false =>
    cases hf : payloadFits h.action data with
    | true => rw [issue_fits hb hf, issue_fits (s := s.withPast tr rs vs) hb hf, mapNext_next, invoke_withPast]
    | false => rw [issue_tooBig hb hf, issue_tooBig (s := s.withPast tr rs vs) hb hf, mapNext_next, setLink_withPast]

theorem exec_withPast (i : Instr) :
    exec i (s.withPast tr rs vs) = mapNext (fun t => t.withPast tr rs vs) (exec i s) := by
  rw [exec_eq_issue, exec_eq_issue, issue_withPast]

theorem advance_withPast (c : Context) (bytes : List Byte) :
    advance c bytes (s.withPast tr rs vs) = (advance c bytes s).withPast tr rs vs := by
  by_cases hmore : c.index + 1 < (Job.program c.job).length
  · rw [advance_more hmore, advance_more hmore, setLink_withPast, setContext_withPast]
  · cases hfinish : Job.finish c.job (c.captured ++ bytes) with
    | some r => rw [advance_last hmore hfinish, advance_last hmore hfinish, respond_withPast]
    | none => simp [advance, hmore, hfinish]

theorem settle_withPast (c : Context) : settle c (s.withPast tr rs vs) = (settle c s).withPast tr rs vs := by
  cases hlink : s.link with
  | quiet | waiting => simp [settle, hlink]
  | replied r => cases r <;> simp [settle, hlink, advance_withPast]

theorem runCurrent_withPast (c : Context) :
    runCurrent c (s.withPast tr rs vs) = mapNext (fun t => t.withPast tr rs vs) (runCurrent c s) := by
  cases hcurrent : Context.current c with
  | none => simp [runCurrent, hcurrent]
  | some i =>
    obtain ⟨t, hexec, hrun⟩ := runCurrent_eq hcurrent s
    rw [hrun, runCurrent, hcurrent]
    simp [exec_withPast, hexec, settle_withPast]

theorem serveCodec_withPast (c : CodecCall) (calls : List CodecCall) :
    serveCodec c calls (s.withPast tr rs vs) = mapNext (fun t => t.withPast tr rs vs) (serveCodec c calls s) := by
  cases hvalue : evalCodec c with
  | none => simp [serveCodec, hvalue]
  | some v => simp [serveCodec, hvalue, State.withPast]

/-- A request is taken, turned away or refused by what it is. -/
theorem accept_withPast : accept (s.withPast tr rs vs) = mapNext (fun t => t.withPast tr rs vs) (accept s) := by
  cases hrequests : s.requests with
  | nil => simp [accept, hrequests]
  | cons r rest =>
    cases r with
    | operation o => cases hok : Operation.payloadOk o <;> simp [accept, hrequests, hok, runCurrent_withPast]
    | encoded bytes =>
      cases hdecode : decode bytes with
      | ok i => simp [accept, hrequests, hdecode, runCurrent_withPast]
      | err e => cases e <;> simp [accept, hrequests, hdecode]

theorem runEngine_withPast :
    runEngine (s.withPast tr rs vs) = mapNext (fun t => t.withPast tr rs vs) (runEngine s) := by
  cases hb : s.link.blocked with
  | true => simp [runEngine, hb]
  | false => cases hinFlight : s.inFlight <;> simp [runEngine, hb, hinFlight, accept_withPast, runCurrent_withPast]

end Past

/-- Settles O53: the codec port and the engine each commute with a longer past, and the past does not choose between them. -/
theorem stepIgnoresThePast : Obligations.StepIgnoresThePast := by
  intro s tr rs vs
  cases hcalls : s.codecCalls with
  | nil => simp [step, hcalls, runEngine_withPast]
  | cons c calls => simp [step, hcalls, serveCodec_withPast]

end Sys2Proof.Machine
end

section
/-! PROOFS. The code tables: the target and action codes (R83 to R86), the codes the spec decides itself (decisions D1 to D5), the
opcode map of header bytes, and what an arbitrary byte decodes to as a header (R95, R96, R99). -/

namespace Sys2Proof

/-! Each encoder below reaches every code, so its decoder answers `Ok` on every code (R81). -/

/-- An encoder whose table pairs a value with both 1-bit codes reaches every code. -/
theorem surjective_of_two_codes {α : Type} {encode : α → BitVec 1} {m₀ m₁ : α} (h₀ : encode m₀ = 0#1)
    (h₁ : encode m₁ = 1#1) : Function.Surjective encode := by
  intro c
  have hcodes : ∀ c : BitVec 1, c = 0#1 ∨ c = 1#1 := by decide
  obtain rfl | rfl := hcodes c
  exacts [⟨m₀, h₀⟩, ⟨m₁, h₁⟩]

theorem Action.encode_surjective : Function.Surjective Action.encode :=
  surjective_of_four_codes (m₀ := .clear) (m₁ := .read) (m₂ := .write) (m₃ := .load) rfl rfl rfl rfl

theorem QuadMode.encode_surjective : Function.Surjective QuadMode.encode :=
  surjective_of_four_codes (m₀ := .nonQuad) (m₁ := .quad1x) (m₂ := .quad2x) (m₃ := .quad4x) rfl rfl rfl rfl

theorem CycleMode.encode_surjective : Function.Surjective CycleMode.encode :=
  surjective_of_four_codes (m₀ := .freeRunning) (m₁ := .singleCycle) (m₂ := .rangeLimit) (m₃ := .moduloN)
    rfl rfl rfl rfl

theorem IndexMode.encode_surjective : Function.Surjective IndexMode.encode :=
  surjective_of_four_codes (m₀ := .disableIndex) (m₁ := .loadCntr) (m₂ := .clearCntr) (m₃ := .loadOtr)
    rfl rfl rfl rfl

theorem CounterMode.encode_surjective : Function.Surjective CounterMode.encode :=
  surjective_of_four_codes (m₀ := .byte4) (m₁ := .byte3) (m₂ := .byte2) (m₃ := .byte1) rfl rfl rfl rfl

theorem FilterClock.encode_surjective : Function.Surjective FilterClock.encode :=
  surjective_of_two_codes (m₀ := .one) (m₁ := .two) rfl rfl

theorem BoolCode.encode_surjective : Function.Surjective BoolCode.encode :=
  surjective_of_two_codes (m₀ := false) (m₁ := true) rfl rfl

/-- R90 (decision D3). -/
@[simp] theorem FilterClock.decode_encode (m : FilterClock) : FilterClock.decode (FilterClock.encode m) = .ok m := by
  cases m <;> rfl

/-- R92 (decision D4). -/
@[simp] theorem BoolCode.decode_encode (v : Bool) : BoolCode.decode (BoolCode.encode v) = .ok v := by
  cases v <;> rfl

/-- R86: every action code is read. -/
theorem Action.exists_decode_eq_ok (c : BitVec 2) : ∃ a, Action.decode c = .ok a ∧ Action.encode a = c := by
  obtain ⟨a, rfl⟩ := Action.encode_surjective c
  exact ⟨a, Action.decode_encode a, rfl⟩

/-- R84: every target code is read, and only 111 is not the code of the target it gives (decision D5). -/
theorem Target.exists_decode_eq_ok (c : BitVec 3) :
    ∃ t, Target.decode c = .ok t ∧ Target.encode t = if c = 0b111#3 then 0b000#3 else c := by
  have hcodes : ∀ c : BitVec 3, c = 0#3 ∨ c = 1#3 ∨ c = 2#3 ∨ c = 3#3 ∨ c = 4#3 ∨ c = 5#3 ∨ c = 6#3 ∨ c = 7#3 := by
    decide
  obtain rfl | rfl | rfl | rfl | rfl | rfl | rfl | rfl := hcodes c
  exacts [⟨.none, rfl, rfl⟩, ⟨.mdr0, rfl, rfl⟩, ⟨.mdr1, rfl, rfl⟩, ⟨.dtr, rfl, rfl⟩, ⟨.cntr, rfl, rfl⟩,
    ⟨.otr, rfl, rfl⟩, ⟨.str, rfl, rfl⟩, ⟨.none, rfl, rfl⟩]

/-- R83: no target's code is 111. -/
theorem Target.encode_ne_111 (t : RegisterTarget) : Target.encode t ≠ 0b111#3 := by
  cases t <;> decide

/-- Settles O1: the tables by evaluation; the action encoder reaches every code and its decoder inverts it. -/
theorem targetAndActionCodeTables : Obligations.TargetAndActionCodeTables := by
  refine ⟨⟨rfl, rfl, rfl, rfl, rfl, rfl, rfl, rfl, ?_⟩, rfl, rfl, rfl, rfl,
    decode_eq_ok_iff_encode_eq Action.decode_encode Action.encode_surjective⟩
  intro t ht
  have hnone : Target.decode 0b111#3 = .ok .none := rfl
  rw [← Result.ok.inj (hnone.symm.trans ht)]
  rfl

/-- Settles O3: the tables by evaluation; both 1-bit encoders reach every code and their decoders invert them. -/
theorem decidedCodeTables : Obligations.DecidedCodeTables :=
  ⟨⟨rfl, rfl, decode_eq_ok_iff_encode_eq FilterClock.decode_encode FilterClock.encode_surjective⟩,
    ⟨rfl, rfl, decode_eq_ok_iff_encode_eq BoolCode.decode_encode BoolCode.encode_surjective⟩,
    ⟨rfl, rfl⟩, ⟨rfl, rfl⟩, rfl, rfl, rfl, rfl, rfl, rfl, rfl⟩

/-- R62: an emitted header byte never has target code 111. -/
theorem Header.encode_ne_of_code_111 {b : Byte} (hb : extract b 5 3 = 0b111#3) (h : InstructionHeader) :
    Header.encode h ≠ b := by
  rintro rfl
  exact Target.encode_ne_111 h.target ((Header.extract_target_encode h).symm.trans hb)

/-- Settles O4: the opcode map by evaluation; a byte with target code 111 is no header's encoding. -/
theorem headerEncodeTable : Obligations.HeaderEncodeTable := by
  constructor
  · decide
  · intro p hp
    have hcode : ∀ p ∈ [(0x38#8, RegisterAction.clear), (0x78#8, .read), (0xB8#8, .write), (0xF8#8, .load)],
        Header.decode p.1 = .ok ⟨.none, p.2⟩ ∧ extract p.1 5 3 = 0b111#3 := by decide
    obtain ⟨hdecode, h111⟩ := hcode p hp
    exact ⟨hdecode, Header.encode_ne_of_code_111 h111⟩

/-- R96: every byte decodes, to the target and the action of its two fields. -/
theorem Header.exists_decode_eq_ok (b : Byte) :
    ∃ h, Header.decode b = .ok h ∧ Action.encode h.action = extract b 7 6 ∧
      Target.encode h.target = (if extract b 5 3 = 0b111#3 then 0b000#3 else extract b 5 3) ∧
      Target.decode (extract b 5 3) = .ok h.target ∧ Action.decode (extract b 7 6) = .ok h.action := by
  obtain ⟨t, ht, htarget⟩ := Target.exists_decode_eq_ok (extract b 5 3)
  obtain ⟨a, ha, haction⟩ := Action.exists_decode_eq_ok (extract b 7 6)
  exact ⟨⟨t, a⟩, Header.decode_eq_ok ht ha, haction, htarget, ht, ha⟩

/-- R82, R99: the action field put back at its place, with a target field of 000 or of the byte itself. -/
theorem place_fields_eq_and (b : Byte) :
    place (extract b 7 6) 6 ||| place 0b000#3 3 = b &&& 0xC0#8 ∧
      place (extract b 7 6) 6 ||| place (extract b 5 3) 3 = b &&& 0xF8#8 := by
  revert b; decide

/-- Settles O6: both fields decode, and the codes of what they decode to are the fields, 000 for 111. -/
theorem headerDecodeIsTotalAndCanonicalises : Obligations.HeaderDecodeIsTotalAndCanonicalises := by
  intro b
  obtain ⟨⟨t, a⟩, hdecode, haction, htarget, ht, ha⟩ := Header.exists_decode_eq_ok b
  obtain ⟨hC0, hF8⟩ := place_fields_eq_and b
  refine ⟨t, a, ht, ha, hdecode, ?_⟩
  rw [Header.encode, haction, htarget]
  split
  · exact hC0
  · exact hF8

end Sys2Proof
end

section
/-! PROOFS. The configuration codecs both ways (R100 to R105), the status byte's layout as a bijection (R109, R112), and the range
and the one zero of reconstruct (R117 to R119). -/

namespace Sys2Proof

/-- R101: a byte decodes to the configuration whose codes are its fields. -/
theorem Mdr0.decode_eq_ok {b : Byte} {c : Mdr0Config} (hquad : extract b 1 0 = QuadMode.encode c.quadMode)
    (hcycle : extract b 3 2 = CycleMode.encode c.cycleMode) (hindex : extract b 5 4 = IndexMode.encode c.indexMode)
    (hinverted : extract b 6 6 = BoolCode.encode c.indexInverted)
    (hclock : extract b 7 7 = FilterClock.encode c.filterClock) : Mdr0.decode b = .ok c := by
  rw [Mdr0.decode, hquad, QuadMode.decode_encode, Result.bind_ok, hcycle, CycleMode.decode_encode, Result.bind_ok,
    hindex, IndexMode.decode_encode, Result.bind_ok, hinverted, BoolCode.decode_encode, Result.bind_ok,
    hclock, FilterClock.decode_encode, Result.bind_ok]

/-- R102: each field of an encoded configuration is the code placed there. -/
@[simp] theorem Mdr0.decode_encode (c : Mdr0Config) : Mdr0.decode (Mdr0.encode c) = .ok c := by
  obtain ⟨hquad, hcycle, hindex, hinverted, hclock, -⟩ := mdr0ByteLayout c
  exact Mdr0.decode_eq_ok hquad hcycle hindex hinverted hclock

/-- R105: every byte is the encoding of the configuration it decodes to. -/
theorem Mdr0.exists_decode_eq_ok (b : Byte) : ∃ c, Mdr0.decode b = .ok c ∧ Mdr0.encode c = b := by
  obtain ⟨quad, hquad⟩ := QuadMode.encode_surjective (extract b 1 0)
  obtain ⟨cycle, hcycle⟩ := CycleMode.encode_surjective (extract b 3 2)
  obtain ⟨index, hindex⟩ := IndexMode.encode_surjective (extract b 5 4)
  obtain ⟨inverted, hinverted⟩ := BoolCode.encode_surjective (extract b 6 6)
  obtain ⟨clock, hclock⟩ := FilterClock.encode_surjective (extract b 7 7)
  refine ⟨⟨quad, cycle, index, inverted, clock⟩,
    Mdr0.decode_eq_ok hquad.symm hcycle.symm hindex.symm hinverted.symm hclock.symm, BitVec.eq_of_toNat_eq ?_⟩
  rw [Mdr0.toNat_encode, hquad, hcycle, hindex, hinverted, hclock, toNat_extract b 0 (by decide),
    toNat_extract b 2 (by decide), toNat_extract b 4 (by decide), toNat_extract b 6 (by decide),
    toNat_extract b 7 (by decide)]
  have := b.isLt
  omega

/-- R69: the value of the Mdr1 byte (decisions D2, D7). -/
theorem Mdr1.toNat_encode (c : Mdr1Config) :
    (Mdr1.encode c).toNat =
      (BoolCode.encode c.flagOnCarry).toNat * 2 ^ 7 + (BoolCode.encode c.flagOnBorrow).toNat * 2 ^ 6 +
      (BoolCode.encode c.flagOnCompare).toNat * 2 ^ 5 + (BoolCode.encode c.flagOnIndex).toNat * 2 ^ 4 +
      (BoolCode.encode c.countingDisabled).toNat * 2 ^ 2 + (CounterMode.encode c.counterMode).toNat := by
  have h7 := toNat_place (lo := 7) (BoolCode.encode c.flagOnCarry) (by decide)
  have h6 := toNat_or_place (lo := 6) (BoolCode.encode c.flagOnBorrow) (by rw [h7]; omega) (by decide)
  have h5 := toNat_or_place (lo := 5) (BoolCode.encode c.flagOnCompare) (by rw [h6, h7]; omega) (by decide)
  have h4 := toNat_or_place (lo := 4) (BoolCode.encode c.flagOnIndex) (by rw [h5, h6, h7]; omega) (by decide)
  have h2 := toNat_or_place (lo := 2) (BoolCode.encode c.countingDisabled) (by rw [h4, h5, h6, h7]; omega) (by decide)
  have h0 := toNat_or_place (lo := 0) (CounterMode.encode c.counterMode) (by rw [h2, h4, h5, h6, h7]; omega) (by decide)
  rw [Mdr1.encode, h0, h2, h4, h5, h6, h7, pow_zero, Nat.mul_one]

/-- R69: the place of each field, as a code (flags: decision D2). -/
theorem Mdr1.extract_encode (c : Mdr1Config) :
    extract (Mdr1.encode c) 1 0 = CounterMode.encode c.counterMode ∧
    extract (Mdr1.encode c) 2 2 = BoolCode.encode c.countingDisabled ∧
    extract (Mdr1.encode c) 3 3 = BoolCode.encode false ∧
    extract (Mdr1.encode c) 4 4 = BoolCode.encode c.flagOnIndex ∧
    extract (Mdr1.encode c) 5 5 = BoolCode.encode c.flagOnCompare ∧
    extract (Mdr1.encode c) 6 6 = BoolCode.encode c.flagOnBorrow ∧
    extract (Mdr1.encode c) 7 7 = BoolCode.encode c.flagOnCarry := by
  have hvalue := Mdr1.toNat_encode c
  have hmode := (CounterMode.encode c.counterMode).isLt
  have hdisabled := (BoolCode.encode c.countingDisabled).isLt
  have hindex := (BoolCode.encode c.flagOnIndex).isLt
  have hcompare := (BoolCode.encode c.flagOnCompare).isLt
  have hborrow := (BoolCode.encode c.flagOnBorrow).isLt
  have hcarry := (BoolCode.encode c.flagOnCarry).isLt
  have hzero : (BoolCode.encode false).toNat = 0 := rfl
  refine ⟨?_, ?_, ?_, ?_, ?_, ?_, ?_⟩ <;> exact extract_eq_of_toNat (by decide) (by omega)

/-- R82, R92: the bit of a field that holds a flag's code is the flag. -/
theorem getLsbD_eq_of_extract {b : Byte} {i : Nat} {v : Bool} (h : (extract b i i).getLsbD 0 = (BoolCode.encode v).getLsbD 0) :
    b.getLsbD i = v := by
  rw [← getLsbD_extract_bit, h]
  cases v <;> rfl

/-- Settles O8: the defaults by evaluation; each flag's bit is the field its code is placed in. -/
theorem mdr1ByteLayoutAndDefaults : Obligations.Mdr1ByteLayoutAndDefaults := by
  refine ⟨⟨rfl, by decide, rfl, by decide⟩, fun c => ?_⟩
  obtain ⟨hmode, hdisabled, hzero, hindex, hcompare, hborrow, hcarry⟩ := Mdr1.extract_encode c
  exact ⟨hmode, getLsbD_eq_of_extract (by rw [hdisabled]), getLsbD_eq_of_extract (by rw [hzero]),
    getLsbD_eq_of_extract (by rw [hindex]), getLsbD_eq_of_extract (by rw [hcompare]),
    getLsbD_eq_of_extract (by rw [hborrow]), getLsbD_eq_of_extract (by rw [hcarry])⟩

/-- R104: a byte decodes to the configuration whose codes are its fields, bit 3 not among them. -/
theorem Mdr1.decode_eq_ok {b : Byte} {c : Mdr1Config} (hmode : extract b 1 0 = CounterMode.encode c.counterMode)
    (hdisabled : extract b 2 2 = BoolCode.encode c.countingDisabled)
    (hindex : extract b 4 4 = BoolCode.encode c.flagOnIndex) (hcompare : extract b 5 5 = BoolCode.encode c.flagOnCompare)
    (hborrow : extract b 6 6 = BoolCode.encode c.flagOnBorrow) (hcarry : extract b 7 7 = BoolCode.encode c.flagOnCarry) :
    Mdr1.decode b = .ok c := by
  rw [Mdr1.decode, hmode, CounterMode.decode_encode, Result.bind_ok, hdisabled, BoolCode.decode_encode, Result.bind_ok,
    hindex, BoolCode.decode_encode, Result.bind_ok, hcompare, BoolCode.decode_encode, Result.bind_ok,
    hborrow, BoolCode.decode_encode, Result.bind_ok, hcarry, BoolCode.decode_encode, Result.bind_ok]

/-- R105. -/
@[simp] theorem Mdr1.decode_encode (c : Mdr1Config) : Mdr1.decode (Mdr1.encode c) = .ok c := by
  obtain ⟨hmode, hdisabled, -, hindex, hcompare, hborrow, hcarry⟩ := Mdr1.extract_encode c
  exact Mdr1.decode_eq_ok hmode hdisabled hindex hcompare hborrow hcarry

/-- Clearing bit 3 takes its weight off the byte's value. -/
theorem toNat_and_F7 (b : Byte) : (b &&& 0xF7#8).toNat = b.toNat / 2 ^ 4 * 2 ^ 4 + b.toNat % 2 ^ 3 := by
  revert b; decide

/-- R105: every byte decodes, and encoding the result clears bit 3 (decision D7). -/
theorem Mdr1.exists_decode_eq_ok (b : Byte) : ∃ c, Mdr1.decode b = .ok c ∧ Mdr1.encode c = b &&& 0xF7#8 := by
  obtain ⟨mode, hmode⟩ := CounterMode.encode_surjective (extract b 1 0)
  obtain ⟨disabled, hdisabled⟩ := BoolCode.encode_surjective (extract b 2 2)
  obtain ⟨index, hindex⟩ := BoolCode.encode_surjective (extract b 4 4)
  obtain ⟨compare, hcompare⟩ := BoolCode.encode_surjective (extract b 5 5)
  obtain ⟨borrow, hborrow⟩ := BoolCode.encode_surjective (extract b 6 6)
  obtain ⟨carry, hcarry⟩ := BoolCode.encode_surjective (extract b 7 7)
  refine ⟨⟨mode, disabled, index, compare, borrow, carry⟩,
    Mdr1.decode_eq_ok hmode.symm hdisabled.symm hindex.symm hcompare.symm hborrow.symm hcarry.symm,
    BitVec.eq_of_toNat_eq ?_⟩
  rw [Mdr1.toNat_encode, hmode, hdisabled, hindex, hcompare, hborrow, hcarry, toNat_and_F7,
    toNat_extract b 0 (by decide), toNat_extract b 2 (by decide), toNat_extract b 4 (by decide),
    toNat_extract b 5 (by decide), toNat_extract b 6 (by decide), toNat_extract b 7 (by decide)]
  have := b.isLt
  omega

/-- Settles O9: a configuration's codes are the fields of its byte, and a byte's fields are the codes of a configuration. -/
theorem configRoundTrips : Obligations.ConfigRoundTrips :=
  ⟨Mdr0.decode_encode, Mdr1.decode_encode, Mdr0.exists_decode_eq_ok, Mdr1.exists_decode_eq_ok⟩

/-- R112: a snapshot determines each bit of its byte. -/
theorem StatusSnapshot.ofByte_injective : Function.Injective StatusSnapshot.ofByte := by
  intro b b' h
  simp only [StatusSnapshot.ofByte, StatusSnapshot.mk.injEq] at h
  obtain ⟨h0, h1, h2, h3, h4, h5, h6, h7⟩ := h
  have hsign : ∀ v v' : Bool, (if v then Sign.negative else .positive) = (if v' then .negative else .positive) → v = v' := by
    decide
  have hdirection : ∀ v v' : Bool, (if v then Direction.up else .down) = (if v' then .up else .down) → v = v' := by decide
  replace h0 := hsign _ _ h0
  replace h1 := hdirection _ _ h1
  refine BitVec.eq_of_getLsbD_eq fun i hi => ?_
  interval_cases i <;> assumption

/-- R112: the byte of a snapshot, bit 0 first (decision D1). -/
def StatusSnapshot.toByte (st : StatusSnapshot) : Byte :=
  BitVec.ofBoolListLE [decide (st.sign = .negative), decide (st.countDirection = .up), st.powerLoss, st.countingEnabled,
    st.index, st.compare, st.borrow, st.carry]

/-- R112: every snapshot is the one its byte holds. -/
theorem StatusSnapshot.ofByte_toByte (st : StatusSnapshot) : StatusSnapshot.ofByte st.toByte = st := by
  obtain ⟨sign, direction, powerLoss, countingEnabled, index, compare, borrow, carry⟩ := st
  simp only [StatusSnapshot.ofByte, StatusSnapshot.toByte, BitVec.getLsbD_ofBoolListLE]
  cases sign <;> cases direction <;> rfl

/-- Settles O11: the decoder gives the snapshot of the byte's bits, which determines the byte and can be any. -/
theorem strDecodeLayout : Obligations.StrDecodeLayout := by
  refine ⟨?_, ?_, ?_⟩
  · intro b st hdecode
    rw [Str.decode_eq_ok] at hdecode
    obtain rfl := Result.ok.inj hdecode
    simp [StatusSnapshot.ofByte]
  · intro b b' hdecode
    rw [Str.decode_eq_ok, Str.decode_eq_ok] at hdecode
    exact StatusSnapshot.ofByte_injective (Result.ok.inj hdecode)
  · intro st
    exact ⟨st.toByte, by rw [Str.decode_eq_ok, StatusSnapshot.ofByte_toByte]⟩

/-- R118: a big-endian value is zero only when every byte is. -/
theorem foldBigEndian_eq_zero_iff (s : List Byte) : foldBigEndian 0 s = 0 ↔ ∀ b ∈ s, b = 0x00#8 := by
  induction s with
  | nil => simp
  | cons b rest ih =>
    have hb : b.toNat = 0 ↔ b = 0x00#8 := BitVec.toNat_inj (y := 0x00#8)
    rw [foldBigEndian_zero_cons, Nat.add_eq_zero_iff, ih, List.forall_mem_cons, ← hb]
    simp

/-- Settles O15: both results are the magnitude with a sign, which 64 bits hold exactly, and only zero is its own negation. -/
theorem reconstructRangeAndZero : Obligations.ReconstructRangeAndZero := by
  refine ⟨fun bytes hlen => ?_, by decide⟩
  have hmagnitude := foldBigEndian_lt_of_length_le hlen
  have hpositive := toInt_ofInt_signedMagnitude .positive hmagnitude
  have hnegative := toInt_ofInt_signedMagnitude .negative hmagnitude
  simp only [signedMagnitude, reduceCtorEq, if_true, if_false] at hpositive hnegative
  refine ⟨_, _, reconstruct_of_length_le .positive hlen, reconstruct_of_length_le .negative hlen, ?_⟩
  simp only [signedMagnitude, reduceCtorEq, if_true, if_false]
  refine ⟨by omega, by omega, by omega, ?_⟩
  rw [← foldBigEndian_eq_zero_iff, ← BitVec.toInt_inj]
  omega

end Sys2Proof
end

section
/-! PROOFS. The encoding of wire instructions: what the decoder answers on each sequence (R57, R76, R81, R155, R156), and that it
gives back every well-formed instruction from its words (R57 to R62, R75, R150). -/

namespace Sys2Proof

/-- R57: the decoder on a non-empty sequence, once its header is known. -/
theorem decode_cons {b : Byte} {h : InstructionHeader} (hb : Header.decode b = .ok h) (data : List Byte) :
    decode (b :: data) =
      if payloadFits h.action data then
        .ok (if extract b 5 3 = 0b111#3 then Instr.ofAliasCode h.action data else Instr.ofHeader h data)
      else .err .payloadTooBig := by
  rw [decode, hb]
  dsimp only
  split_ifs <;> rfl

/-- R168: a payload breaks the size contract of Clear and Load with any byte, of Write with more than 4, of Read never. -/
theorem payloadFits_eq_false_iff (a : RegisterAction) (data : List Byte) :
    payloadFits a data = false ↔ ((a = .clear ∨ a = .load) ∧ data ≠ []) ∨ (a = .write ∧ 4 < data.length) := by
  cases a <;> simp only [payloadFits, decide_eq_false_iff_not] <;> simp [Config.maxPayload]

/-- R58, R59: the two fields of a row's word are its action code and its target code, 111 among them. -/
theorem extract_row_fields (a : RegisterAction) (c : BitVec 3) :
    extract (place (Action.encode a) 6 ||| place c 3) 5 3 = c ∧
      extract (place (Action.encode a) 6 ||| place c 3) 7 6 = Action.encode a := by
  have hfields : ∀ (code : BitVec 2) (c : BitVec 3),
      extract (place code 6 ||| place c 3) 5 3 = c ∧ extract (place code 6 ||| place c 3) 7 6 = code := by decide
  exact hfields (Action.encode a) c

/-- R150: a row of target code 111 is one of target None. -/
theorem target_of_codedAsAlias {i : Instr} (h : i.codedAsAlias = true) : i.target = .none := by
  cases i <;> simp_all [Instr.codedAsAlias, Instr.target]

/-- R84, R150: a row's target code is read as the row's target. -/
theorem Target.decode_targetCode (i : Instr) : Target.decode i.targetCode = .ok i.target := by
  cases hrow : i.codedAsAlias with
  | true => rw [Instr.targetCode, if_pos hrow, target_of_codedAsAlias hrow]; rfl
  | false => rw [Instr.targetCode, if_neg (by simp [hrow]), Target.decode_encode]

/-- R62: only the rows of target code 111 hold it. -/
theorem targetCode_eq_111_iff (i : Instr) : i.targetCode = 0b111#3 ↔ i.codedAsAlias = true := by
  cases hrow : i.codedAsAlias with
  | true => simp [Instr.targetCode, hrow]
  | false => simp [Instr.targetCode, hrow, Target.encode_ne_111]

/-- R168: the bytes after the header meet the size contract exactly when the instruction is well formed. -/
theorem payloadFits_operandBytes (i : Instr) : payloadFits i.action i.operandBytes = i.wf := by
  cases i <;> rfl

/-- R120, R150: an instruction is the row of its header, or of its action and target code 111, with the bytes after its header. -/
theorem ofRow_operandBytes (i : Instr) :
    (if i.codedAsAlias then Instr.ofAliasCode i.action i.operandBytes else Instr.ofHeader i.header i.operandBytes) = i := by
  cases i <;> rfl

/-- Settles O29: the header byte's fields are read back as the row's action and target, and its target code says whether the row is
one of 111. -/
theorem decodeEncodeRoundTrip : Obligations.DecodeEncodeRoundTrip := by
  intro i hwf
  obtain ⟨htarget, haction⟩ := extract_row_fields i.action i.targetCode
  have hheader : Header.decode (place (Action.encode i.action) 6 ||| place i.targetCode 3) = .ok i.header :=
    Header.decode_eq_ok (by rw [htarget, Target.decode_targetCode]) (by rw [haction, Action.decode_encode])
  have hfits : payloadFits i.header.action i.operandBytes = true := (payloadFits_operandBytes i).trans hwf
  rw [encode, decode_cons hheader, if_pos hfits, htarget]
  exact congrArg Result.ok ((if_congr (targetCode_eq_111_iff i) rfl rfl).trans (ofRow_operandBytes i))

/-- Settles O30, by evaluation. -/
theorem wordsDecodeAsTheSpecEncodesThem : Obligations.WordsDecodeAsTheSpecEncodesThem := by
  unfold Obligations.WordsDecodeAsTheSpecEncodesThem
  decide

/-- Settles O31, by evaluation. -/
theorem tableRowsDecode : Obligations.TableRowsDecode := by
  unfold Obligations.TableRowsDecode
  decide

/-- Settles O33: a non-empty sequence has a header, and its payload fits or does not. -/
theorem decoderRejectsOnlyBySize : Obligations.DecoderRejectsOnlyBySize := by
  intro bytes
  cases bytes with
  | nil => exact .inr (.inl ⟨rfl, rfl⟩)
  | cons b data =>
    obtain ⟨h, hb, -⟩ := Header.exists_decode_eq_ok b
    have hdecode := decode_cons hb data
    cases hfits : payloadFits h.action data with
    | true =>
      rw [if_pos hfits] at hdecode
      exact .inl ⟨_, hdecode, wf_of_decode hdecode⟩
    | false =>
      rw [if_neg (by simp [hfits])] at hdecode
      exact .inr (.inr ⟨b, data, h, rfl, hb, hdecode, (payloadFits_eq_false_iff _ _).mp hfits⟩)

/-- R57: only the empty sequence has no header. -/
theorem eq_nil_of_decode_noHeader {bytes : List Byte} (h : decode bytes = .err .noHeader) : bytes = [] := by
  obtain ⟨i, hi, -⟩ | ⟨hnil, -⟩ | ⟨b, data, hd, -, -, hbig, -⟩ := decoderRejectsOnlyBySize bytes
  · cases h.symm.trans hi
  · exact hnil
  · cases h.symm.trans hbig

end Sys2Proof

namespace Sys2Proof.Machine

open Sys2Proof

/-- R57: the bytes after the header are the same in the words and in the frame. -/
theorem frameTail_payload (i : Instr) : frameTail i.action i.payload = i.operandBytes := by
  rw [Instr.operandBytes]
  cases i.action <;> rfl

/-- R61, R150: clearing the target bits of a word of target code 111 gives the header byte of None. -/
theorem and_C0_of_code_111 (a : RegisterAction) :
    (place (Action.encode a) 6 ||| place 0b111#3 3) &&& 0xC0#8 = Header.encode ⟨.none, a⟩ := by
  cases a <;> decide

/-- Settles O32: the bytes after the header agree, and the two header bytes differ only where the target code is 111. -/
theorem encodedWordsAreTheFrameSent : Obligations.EncodedWordsAreTheFrameSent := by
  intro i
  refine ⟨_, _, rfl, ?_⟩
  have htail : frameTail i.header.action i.payload = i.operandBytes := frameTail_payload i
  rw [frameOf, htail]
  congr 1
  cases hrow : i.codedAsAlias with
  | true =>
    have htarget : i.header = ⟨.none, i.action⟩ := by rw [Instr.header, target_of_codedAsAlias hrow]
    rw [Instr.targetCode, if_pos hrow, if_pos rfl, and_C0_of_code_111, htarget]
  | false =>
    rw [Instr.targetCode, hrow, if_neg Bool.false_ne_true, if_neg Bool.false_ne_true]
    rfl

end Sys2Proof.Machine
end

section
/-! PROOFS. The codec port (R115, R165) and the wire instructions on any state (R120, R121, R150, R197): what each issue does to the
transport side, and that it does nothing else. -/

namespace Sys2Proof.Machine

open Sys2Proof

/-- R115: the magnitude is missing exactly outside the domain. -/
theorem bytesToUnsigned_eq_none_iff (bytes : List Byte) : bytesToUnsigned bytes = none ↔ 4 < bytes.length := by
  simp [bytesToUnsigned]

/-- R115, R116: the count is missing exactly where the magnitude is. -/
theorem reconstruct_eq_none_iff (bytes : List Byte) (sign : Sign) :
    reconstruct bytes sign = none ↔ 4 < bytes.length := by
  rw [← bytesToUnsigned_eq_none_iff, reconstruct]
  cases bytesToUnsigned bytes with
  | none => simp
  | some magnitude => cases sign <;> simp

/-- R115: a codec call has no value exactly when it is one of the two on bytes, with more than 4 of them. -/
theorem evalCodec_eq_none_iff (c : CodecCall) :
    evalCodec c = none ↔
      (∃ bytes, c = .bytesToUnsigned bytes ∧ 4 < bytes.length) ∨
      (∃ bytes sign, c = .reconstruct bytes sign ∧ 4 < bytes.length) := by
  cases c with
  | bytesToUnsigned bytes => simp [evalCodec, bytesToUnsigned_eq_none_iff]
  | reconstruct bytes sign => simp [evalCodec, reconstruct_eq_none_iff]
  | _ => simp [evalCodec]

/-- R165: a waiting codec call comes first. -/
theorem step_codecCall {s : State} {c : CodecCall} {rest : List CodecCall} (h : s.codecCalls = c :: rest) :
    step s = serveCodec c rest s := by
  simp [step, h]

/-- R165: a call that has a value is answered, whatever else the state holds. -/
theorem step_of_evalCodec_some {s : State} {c : CodecCall} {rest : List CodecCall} {v : CodecValue}
    (h : s.codecCalls = c :: rest) (hv : evalCodec c = some v) :
    step s = .next { s with codecCalls := rest, codecResults := s.codecResults ++ [v] } := by
  simp [step_codecCall h, serveCodec, hv]

/-- R115: a call without a value is refused. -/
theorem step_of_evalCodec_none {s : State} {c : CodecCall} {rest : List CodecCall} (h : s.codecCalls = c :: rest)
    (hv : evalCodec c = none) : step s = .refused .sequenceTooLong := by
  simp [step_codecCall h, serveCodec, hv]

/-- Settles O16: the codec port is served before the engine, by the value of the call. -/
theorem codecCallsAreEvaluatedAnyTime : Obligations.CodecCallsAreEvaluatedAnyTime :=
  ⟨fun _ _ _ _ => step_of_evalCodec_some, evalCodec_eq_none_iff⟩

/-- Settles O13: outside the domain neither call has a value, so the port refuses it. -/
theorem longSequencesAreRefused : Obligations.LongSequencesAreRefused := fun bytes sign hlong =>
  ⟨(bytesToUnsigned_eq_none_iff bytes).mpr hlong, (reconstruct_eq_none_iff bytes sign).mpr hlong, fun _ _ =>
    ⟨fun h => step_of_evalCodec_none h ((evalCodec_eq_none_iff _).mpr (.inl ⟨bytes, rfl, hlong⟩)),
      fun h => step_of_evalCodec_none h ((evalCodec_eq_none_iff _).mpr (.inr ⟨bytes, sign, rfl, hlong⟩))⟩⟩

/-- Settles O21: by either target code the invocation is the write of the byte None's header encodes to. -/
theorem clearAndLoadNoneSendTheEmittedHeader : Obligations.ClearAndLoadNoneSendTheEmittedHeader := by
  intro s i b hfree hrow
  have hsends : i.wf = true ∧ invocationOf i.header i.payload = ⟨.writeBytes, [b]⟩ := by
    simp only [List.mem_cons, Prod.mk.injEq, List.not_mem_nil, or_false] at hrow
    obtain ⟨rfl, rfl⟩ | ⟨rfl, rfl⟩ | ⟨rfl, rfl⟩ | ⟨rfl, rfl⟩ := hrow <;> exact ⟨rfl, rfl⟩
  exact exec_of_writeBytes hfree hsends.1 hsends.2

/-- Settles O22: by either target code the invocation is the transfer of None's header byte and four zero bytes. -/
theorem readNoneExchangesFiveBytes : Obligations.ReadNoneExchangesFiveBytes := by
  intro s i b hfree hrow
  have hsends : i.wf = true ∧
      invocationOf i.header i.payload = ⟨.transferBytes, [b, 0x00#8, 0x00#8, 0x00#8, 0x00#8]⟩ := by
    simp only [List.mem_cons, Prod.mk.injEq, List.not_mem_nil, or_false] at hrow
    obtain ⟨rfl, rfl⟩ | ⟨rfl, rfl⟩ := hrow <;> exact ⟨rfl, rfl⟩
  exact exec_of_transferBytes hfree hsends.1 hsends.2

/-- Settles O23: by either target code the invocation is the write of None's header byte and the payload, which fits. -/
theorem writeNoneSendsHeaderAndPayload : Obligations.WriteNoneSendsHeaderAndPayload := by
  intro s i b data hfree hlen hrow
  have hbyte : Header.encode ⟨.none, .write⟩ = 0x80#8 := by decide
  have hinv : invocationOf ⟨.none, .write⟩ data = ⟨.writeBytes, 0x80#8 :: data⟩ := by rw [invocationOf, frameOf, hbyte]; rfl
  have hsends : i.wf = true ∧ invocationOf i.header i.payload = ⟨.writeBytes, b :: data⟩ := by
    simp only [List.mem_cons, Prod.mk.injEq, List.not_mem_nil, or_false] at hrow
    obtain ⟨rfl, rfl⟩ | ⟨rfl, rfl⟩ := hrow <;> exact ⟨decide_eq_true hlen, hinv⟩
  exact exec_of_writeBytes hfree hsends.1 hsends.2

/-- Settles O24: a well-formed instruction makes its invocation whatever the answer; `hang` leaves it holding the interface. -/
theorem unreturnedInvocationHoldsTheInterface : Obligations.UnreturnedInvocationHoldsTheInterface := by
  intro s i hfree hwf hhang
  rw [exec_eq_sent hfree hwf rfl, hhang]
  rfl

/-- R121: an ill-formed instruction hands the payload error to its operation and makes no invocation. -/
theorem exec_of_not_wf {s : State} {i : Instr} (hfree : s.link.blocked = false) (hwf : i.wf = false) :
    exec i s = .next (s.setLink (.replied (.err .payloadTooBig))) := by
  rw [exec_eq_issue]
  exact issue_tooBig hfree ((wf_eq_payloadFits i).symm.trans hwf)

/-- Settles O25: every form of Write is ill formed with more than 4 bytes. -/
theorem oversizedWriteIsNotSent : Obligations.OversizedWriteIsNotSent := by
  intro s i data hfree hlong hform
  have hwf : i.wf = false := by
    simp only [List.mem_cons, List.not_mem_nil, or_false] at hform
    obtain rfl | rfl | rfl | rfl | rfl | rfl | rfl | rfl := hform <;> exact decide_eq_false (Nat.not_le.mpr hlong)
  exact exec_of_not_wf hfree hwf

/-- Everything an instruction can do: nothing (blocked), its one invocation, or the payload error. -/
theorem exec_cases {i : Instr} {s t : State} (h : exec i s = .next t) :
    (s.link.blocked = true ∧ t = s) ∨
      (s.link.blocked = false ∧ i.wf = true ∧ t = invoke (invocationOf i.header i.payload) s) ∨
      (s.link.blocked = false ∧ i.wf = false ∧ t = s.setLink (.replied (.err .payloadTooBig))) := by
  rw [exec_eq_issue] at h
  rw [wf_eq_payloadFits]
  exact issue_cases h

/-- Settles O26: neither of the two updates touches the ports or the context, and only an invocation touches the trace. -/
theorem execChangesOnlyTheTransport : Obligations.ExecChangesOnlyTheTransport := by
  intro i s t hexec
  obtain ⟨-, rfl⟩ | ⟨hfree, hwf, rfl⟩ | ⟨-, -, rfl⟩ := exec_cases hexec
  · exact ⟨rfl, rfl, rfl, rfl, rfl, .inl ⟨rfl, rfl, rfl⟩⟩
  · exact ⟨rfl, rfl, rfl, rfl, rfl, .inr ⟨hfree, hwf, rfl, rfl, rfl⟩⟩
  · exact ⟨rfl, rfl, rfl, rfl, rfl, .inl ⟨rfl, rfl, rfl⟩⟩

/-- R50, R197: while an invocation has not returned the engine waits. -/
theorem step_blocked {s : State} (hcalls : s.codecCalls = []) (hb : s.link.blocked = true) : step s = .next s := by
  simp [step, hcalls, runEngine, hb]

/-- Settles O27: neither an instruction nor the engine does anything on a blocked interface. -/
theorem blockedInterfaceSendsNothing : Obligations.BlockedInterfaceSendsNothing := by
  intro s inv hlink
  have hb : s.link.blocked = true := by rw [hlink]; rfl
  constructor
  · intro i
    rw [exec_eq_issue, issue_blocked hb]
  · intro hcalls n
    exact runSteps_fixed (step_blocked hcalls hb) n

end Sys2Proof.Machine
end

section
/-! PROOFS. One step by the transport's answer, said once: the step of an operation in flight (R16, R50, R54, R197), the acceptance
of a request (R165, R168), and the whole step. Statements about single steps follow from it. -/

namespace Sys2Proof.Machine

open Sys2Proof

/-- R41, R120, R154: the data bytes a successful wire instruction hands to its operation. -/
def replyData (a : RegisterAction) (r : ReadResponse) : List Byte :=
  if a = .read then [r.d1, r.d2, r.d3, r.d4] else []

/-- R41: they are as many as the instruction captures. -/
@[simp] theorem length_replyData (i : Instr) (r : ReadResponse) : (replyData i.action r).length = replyBytes i := by
  unfold replyData replyBytes
  cases i.action <;> rfl

theorem linkAfter_success (h : InstructionHeader) (data : List Byte) (r : ReadResponse) :
    linkAfter (invocationOf h data) (.success r) = .replied (.ok (replyData h.action r)) := by
  obtain ⟨t, a⟩ := h
  cases a <;> rfl

theorem busResult_success (a : RegisterAction) (r : ReadResponse) :
    busResult (primitiveOf a) (.success r) = if a = .read then .captured r else .done := by
  cases a <;> rfl

/-- R16, R33: the context after a step that handed back `bytes`. -/
def Context.next (c : Context) (bytes : List Byte) : Context :=
  { job := c.job, index := c.index + 1, captured := c.captured ++ bytes }

/-- The state after the invocation of the current step, its answer still held by the interface (R120). -/
def State.issued (s : State) (c : Context) (i : Instr) : State :=
  invoke (invocationOf i.header i.payload) (s.setContext (some c))

/-- The state after a step that succeeded and is not the last (R16). -/
def State.advanced (s : State) (c : Context) (i : Instr) (r : ReadResponse) : State :=
  ((s.issued c i).setLink .quiet).setContext (some (c.next (replyData i.action r)))

theorem State.issued_link (s : State) (c : Context) (i : Instr) :
    (s.issued c i).link = linkAfter (invocationOf i.header i.payload) (s.answerAt 0) := rfl

/-- A response after the invocation of the current step leaves the operation answered. -/
theorem respond_issued (s : State) (c : Context) (i : Instr) (resp : Response) :
    respond resp (s.issued c i) = s.answered s.requests
      [⟨invocationOf i.header i.payload, busResult (primitiveOf i.action) (s.answerAt 0)⟩] resp :=
  respond_invoke_eq_answered (rest := s.requests) c _ resp

/-! The current instruction's outcome, one equation for each answer. -/

section RunCurrent

variable {s : State} {c : Context} {i : Instr} (hb : s.link.blocked = false) (hc : Context.current c = some i)

include hc in
/-- R33: after the last step the captured bytes are those of all steps. -/
theorem captured_of_last (hlast : ¬ c.index + 1 < (Job.program c.job).length) (r : ReadResponse) :
    (c.captured ++ replyData i.action r).length = ((Job.program c.job).map replyBytes).sum := by
  rw [captured_next hc (length_replyData i r), List.take_of_length_le (Nat.le_of_not_lt hlast)]

include hc in
/-- R160, R166: so they make up a response. -/
theorem exists_finish_of_last (hlast : ¬ c.index + 1 < (Job.program c.job).length) (r : ReadResponse) :
    ∃ resp, Job.finish c.job (c.captured ++ replyData i.action r) = some resp :=
  finish_some (captured_of_last hc hlast r)

include hb hc

theorem runCurrent_of_success_more {r : ReadResponse} (hwf : i.wf = true) (hr : s.answerAt 0 = .success r)
    (hmore : c.index + 1 < (Job.program c.job).length) : runCurrent c s = .next (s.advanced c i r) := by
  have hlink : (s.issued c i).link = .replied (.ok (replyData i.action r)) := by
    rw [State.issued_link, hr, linkAfter_success]; rfl
  rw [runCurrent_fits hc hwf hb]
  exact congrArg _ ((settle_ok hlink).trans (advance_more hmore))

theorem runCurrent_of_success_last {r : ReadResponse} {resp : Response} (hwf : i.wf = true)
    (hr : s.answerAt 0 = .success r) (hlast : ¬ c.index + 1 < (Job.program c.job).length)
    (hfinish : Job.finish c.job (c.captured ++ replyData i.action r) = some resp) :
    runCurrent c s = .next (respond resp (s.issued c i)) := by
  have hlink : (s.issued c i).link = .replied (.ok (replyData i.action r)) := by
    rw [State.issued_link, hr, linkAfter_success]; rfl
  rw [runCurrent_fits hc hwf hb]
  exact congrArg _ ((settle_ok hlink).trans (advance_last hlast hfinish))

theorem runCurrent_of_failure {e : TransportError} (hwf : i.wf = true) (he : s.answerAt 0 = .failure e) :
    runCurrent c s = .next (respond (.err (.transport e)) (s.issued c i)) := by
  have hlink : (s.issued c i).link = .replied (.err (.transport e)) := by rw [State.issued_link, he]; rfl
  rw [runCurrent_fits hc hwf hb]
  exact congrArg _ (settle_err hlink)

theorem runCurrent_of_hang (hwf : i.wf = true) (hhang : s.answerAt 0 = .hang) :
    runCurrent c s = .next (s.issued c i) := by
  have hlink : (s.issued c i).link = .waiting (invocationOf i.header i.payload) := by
    rw [State.issued_link, hhang]; rfl
  rw [runCurrent_fits hc hwf hb]
  exact congrArg _ (settle_waiting hlink)

theorem runCurrent_of_not_wf (hwf : i.wf = false) :
    runCurrent c s = .next (respond (.err .payloadTooBig) s) := by
  obtain ⟨t, hexec, hrun⟩ := runCurrent_eq hc s
  rw [exec_of_not_wf (s := s.setContext (some c)) hb hwf] at hexec
  injection hexec with ht
  rw [hrun, ← ht, settle_err rfl]
  rfl

end RunCurrent

/-- Everything the step of an operation in flight can lead to. -/
inductive Ran (c : Context) (s : State) : State → Prop
  | advanced {i : Instr} {r : ReadResponse} (hc : Context.current c = some i) (hwf : i.wf = true)
      (hr : s.answerAt 0 = .success r) (hmore : c.index + 1 < (Job.program c.job).length) : Ran c s (s.advanced c i r)
  | finished {i : Instr} {r : ReadResponse} {resp : Response} (hc : Context.current c = some i) (hwf : i.wf = true)
      (hr : s.answerAt 0 = .success r) (hlast : ¬ c.index + 1 < (Job.program c.job).length)
      (hfinish : Job.finish c.job (c.captured ++ replyData i.action r) = some resp) : Ran c s (respond resp (s.issued c i))
  | failed {i : Instr} {e : TransportError} (hc : Context.current c = some i) (hwf : i.wf = true)
      (he : s.answerAt 0 = .failure e) : Ran c s (respond (.err (.transport e)) (s.issued c i))
  | hung {i : Instr} (hc : Context.current c = some i) (hwf : i.wf = true) (hhang : s.answerAt 0 = .hang) :
      Ran c s (s.issued c i)
  | tooBig {i : Instr} (hc : Context.current c = some i) (hwf : i.wf = false) :
      Ran c s (respond (.err .payloadTooBig) s)

/-- A context with a current instruction runs it, whatever the transport answers. -/
theorem exists_ran {s : State} {c : Context} {i : Instr} (hb : s.link.blocked = false)
    (hc : Context.current c = some i) : ∃ t, runCurrent c s = .next t ∧ Ran c s t := by
  cases hwf : i.wf with
  | false => exact ⟨_, runCurrent_of_not_wf hb hc hwf, .tooBig hc hwf⟩
  | true =>
    cases hanswer : s.answerAt 0 with
    | success r =>
      by_cases hmore : c.index + 1 < (Job.program c.job).length
      · exact ⟨_, runCurrent_of_success_more hb hc hwf hanswer hmore, .advanced hc hwf hanswer hmore⟩
      · obtain ⟨resp, hfinish⟩ := exists_finish_of_last hc hmore r
        exact ⟨_, runCurrent_of_success_last hb hc hwf hanswer hmore hfinish, .finished hc hwf hanswer hmore hfinish⟩
    | failure e => exact ⟨_, runCurrent_of_failure hb hc hwf hanswer, .failed hc hwf hanswer⟩
    | hang => exact ⟨_, runCurrent_of_hang hb hc hwf hanswer, .hung hc hwf hanswer⟩

theorem ran_of_runCurrent {s t : State} {c : Context} (hb : s.link.blocked = false)
    (h : runCurrent c s = .next t) : Ran c s t := by
  cases hc : Context.current c with
  | none => simp [runCurrent, hc] at h
  | some i =>
    obtain ⟨t', hrun, hran⟩ := exists_ran hb hc
    rw [hrun] at h
    injection h with ht
    exact ht ▸ hran

/-- Everything a step can lead to. -/
inductive Stepped (s : State) : State → Prop
  | served {c : CodecCall} {rest : List CodecCall} {v : CodecValue} (hcalls : s.codecCalls = c :: rest)
      (hv : evalCodec c = some v) :
      Stepped s { s with codecCalls := rest, codecResults := s.codecResults ++ [v] }
  | waited : Stepped s s
  | ran {c : Context} {t : State} (hc : s.inFlight = some c) (hran : Ran c s t) : Stepped s t
  | accepted {r : Request} {rest : List Request} {j : Job} {t : State} (hready : s.Ready r rest)
      (hjob : Request.job r = some j) (hok : Job.payloadOk j = true)
      (hran : Ran (Context.start j) (s.setRequests rest) t) : Stepped s t
  | turnedAway {r : Request} {rest : List Request} (hready : s.Ready r rest) :
      Stepped s (respond (.err .payloadTooBig) (s.setRequests rest))

theorem stepped_of_step {s t : State} (h : step s = .next t) : Stepped s t := by
  obtain ⟨c, rest, v, hcalls, hv, rfl⟩ | ⟨-, -, rfl⟩ | ⟨c, ⟨-, hb⟩, hc, hrun⟩ | ⟨-, -, -, rfl⟩ |
    ⟨r, rest, j, hready, hjob, hok, hrun⟩ | ⟨r, rest, hready, rfl⟩ := step_cases h
  · exact .served hcalls hv
  · exact .waited
  · exact .ran hc (ran_of_runCurrent hb hrun)
  · exact .waited
  · obtain ⟨⟨hcalls, hb⟩, hidle, hrequests⟩ := hready
    exact .accepted ⟨⟨hcalls, hb⟩, hidle, hrequests⟩ hjob hok (ran_of_runCurrent (s := s.setRequests rest) hb hrun)
  · exact .turnedAway hready

/-- R165: a request that is a job whose payload fits starts that job. -/
theorem accept_of_job {s : State} {r : Request} {rest : List Request} {j : Job} (hrequests : s.requests = r :: rest)
    (hjob : Request.job r = some j) (hok : Job.payloadOk j = true) :
    accept s = runCurrent (Context.start j) (s.setRequests rest) := by
  cases r with
  | operation o =>
    obtain rfl := Option.some.inj hjob
    rw [accept, hrequests]
    exact if_pos hok
  | encoded bytes =>
    cases hdecode : decode bytes with
    | ok i =>
      rw [Request.job, hdecode] at hjob
      obtain rfl := Option.some.inj hjob
      simp [accept, hrequests, hdecode]
    | err e => simp [Request.job, hdecode] at hjob

/-- What the engine does with the oldest request of an idle block: start its job, turn it away, or refuse it. -/
theorem accept_cases {s : State} {r : Request} {rest : List Request} (hrequests : s.requests = r :: rest) :
    (∃ j, Request.job r = some j ∧ Job.payloadOk j = true ∧
        accept s = runCurrent (Context.start j) (s.setRequests rest)) ∨
      accept s = .next (respond (.err .payloadTooBig) (s.setRequests rest)) ∨
      (r = .encoded [] ∧ accept s = .refused .emptyFrame) := by
  cases r with
  | operation o =>
    cases hok : Operation.payloadOk o with
    | true => exact .inl ⟨.operation o, rfl, hok, accept_of_job hrequests rfl hok⟩
    | false => exact .inr (.inl (by simp [accept, hrequests, hok]))
  | encoded bytes =>
    cases hdecode : decode bytes with
    | ok i =>
      have hjob : Request.job (.encoded bytes) = some (.wire i) := by rw [Request.job, hdecode]
      exact .inl ⟨.wire i, hjob, wf_of_decode hdecode, accept_of_job hrequests hjob (wf_of_decode hdecode)⟩
    | err e =>
      cases e with
      | noHeader =>
        obtain rfl := eq_nil_of_decode_noHeader hdecode
        exact .inr (.inr ⟨rfl, by simp [accept, hrequests, hdecode]⟩)
      | payloadTooBig => exact .inr (.inl (by simp [accept, hrequests, hdecode]))
      | field f => exact absurd hdecode (decode_ne_field bytes f)

/-- The state in which a request has been taken and its job is in flight at its first step (R16, R33). -/
def State.started (s : State) (rest : List Request) (j : Job) : State :=
  (s.setRequests rest).setContext (some (Context.start j))

/-- A step sets the context it runs. -/
theorem runCurrent_setContext (c : Context) (o : Option Context) (s : State) :
    runCurrent c (s.setContext o) = runCurrent c s := rfl

/-- R165: an accepted request's first step is the first step of its job in flight. -/
theorem step_started {s : State} {r : Request} {rest : List Request} {j : Job} (hready : s.Ready r rest)
    (hjob : Request.job r = some j) (hok : Job.payloadOk j = true) :
    (s.started rest j).Free ∧ step s = step (s.started rest j) := by
  obtain ⟨hfree, hidle, hrequests⟩ := hready
  have hstarted : (s.started rest j).Free := hfree
  exact ⟨hstarted, by
    rw [step_ready ⟨hfree, hidle, hrequests⟩, accept_of_job hrequests hjob hok, step_inFlight (c := Context.start j) hstarted rfl,
      State.started, runCurrent_setContext]⟩

end Sys2Proof.Machine
end

section
/-! PROOFS. Single steps: an idle block (R35, R185), encoded requests and table words (log entry 5), the requests issued or turned
away at acceptance (R151, R157, R168), and the operation in flight under each answer (R16, R54, R197). -/

namespace Sys2Proof.Machine

open Sys2Proof

/-- Settles O46: the reset state's fields by evaluation; an idle block with no request waits. -/
theorem resetIsIdleAndSilent : Obligations.ResetIsIdleAndSilent :=
  ⟨rfl, rfl, rfl, rfl, rfl, rfl, step_idle ⟨rfl, rfl⟩ rfl rfl, fun _ => step_idle, fun _ => ⟨⟨rfl, rfl⟩, rfl, rfl⟩⟩

/-- A decoded request is the job of its instruction. -/
theorem job_encoded {bytes : List Byte} {i : Instr} (h : decode bytes = .ok i) :
    Request.job (.encoded bytes) = some (.wire i) := by
  rw [Request.job, h]

/-- A wire instruction given as bytes is its job's only step. -/
theorem current_start_wire (i : Instr) : Context.current (Context.start (.wire i)) = some i := rfl

/-- The step on an encoded request runs its instruction with the request taken. -/
theorem step_ready_encoded {s : State} {bytes : List Byte} {rest : List Request} {i : Instr}
    (hready : s.Ready (.encoded bytes) rest) (hdecode : decode bytes = .ok i) :
    step s = runCurrent (Context.start (.wire i)) (s.setRequests rest) := by
  obtain ⟨hfree, hidle, hrequests⟩ := hready
  rw [step_ready ⟨hfree, hidle, hrequests⟩, accept_of_job hrequests (job_encoded hdecode) (wf_of_decode hdecode)]

/-- Settles O34: the accepted state is the one in which the instruction's job is in flight. -/
theorem stepRunsDecodedInstruction : Obligations.StepRunsDecodedInstruction := by
  intro s bytes rest i hready hdecode
  obtain ⟨t, hexec, hrun⟩ := runCurrent_eq (current_start_wire i) (s.setRequests rest)
  exact ⟨t, hexec, (step_ready_encoded hready hdecode).trans hrun⟩

/-- Settles O36: the placed word makes the state ready, and the step on an encoded request runs its instruction. -/
theorem fetchWordRunsNext : Obligations.FetchWordRunsNext := by
  intro s nbits w i hword
  have hdecode : decode (tableWordBytes nbits w) = .ok i := by
    unfold decodeTableWord at hword
    cases hd : decode (tableWordBytes nbits w) <;> simp_all
  have hready : (s.withFetchWord nbits w).Ready (.encoded (tableWordBytes nbits w)) s.requests := ⟨⟨rfl, rfl⟩, rfl, rfl⟩
  exact ⟨hready, stepRunsDecodedInstruction _ _ _ i hready hdecode⟩

/-- Settles O35: the instruction is its job's only step, so its answer is the job's. -/
theorem encodedRequestIsAnswered : Obligations.EncodedRequestIsAnswered := by
  intro s bytes rest i hready hdecode
  have hstep := step_ready_encoded hready hdecode
  obtain ⟨⟨-, hb⟩, -⟩ := hready
  have hwf := wf_of_decode hdecode
  constructor
  · intro r hr
    have hrun := runCurrent_of_success_last (s := s.setRequests rest) hb (current_start_wire i) hwf hr (Nat.lt_irrefl 1) rfl
    rw [hstep, hrun, respond_issued, answerAt_setRequests, hr, busResult_success]
    rfl
  · intro e he
    have hrun := runCurrent_of_failure (s := s.setRequests rest) hb (current_start_wire i) hwf he
    rw [hstep, hrun, respond_issued, answerAt_setRequests, he]
    rfl

/-- Settling a result makes no invocation. -/
@[simp] theorem settle_trace (c : Context) (s : State) : (settle c s).trace = s.trace := by
  unfold settle advance
  split
  · split
    · rfl
    · split <;> rfl
  · rfl
  · rfl
  · rfl

/-- R151: the first step of an operation whose payload fits sends the frame of its first instruction, whatever the answer. -/
theorem step_sends {s : State} {o : Operation} {rest : List Request} {i : Instr} {is : List Instr} {inv : Invocation}
    (hready : s.Ready (.operation o) rest) (hok : Operation.payloadOk o = true) (hprogram : Operation.program o = i :: is)
    (hinv : invocationOf i.header i.payload = inv) :
    ∃ t res, step s = .next t ∧ t.trace = s.trace ++ [⟨inv, res⟩] := by
  refine ⟨_, busResult inv.primitive (s.answerAt 0), step_of_payloadOk hready hok hprogram, ?_⟩
  rw [settle_trace, invoke_trace, hinv]
  rfl

/-- R40, R57: an action's primitive and frame, told apart by Read alone where Clear and Load have no data. -/
theorem invocationOf_eq_ite (h : InstructionHeader) {data : List Byte}
    (hempty : h.action = .clear ∨ h.action = .load → data = []) :
    invocationOf h data = ⟨if h.action = .read then .transferBytes else .writeBytes,
      Header.encode h :: (if h.action = .read then [0x00#8, 0x00#8, 0x00#8, 0x00#8] else data)⟩ := by
  obtain ⟨t, a⟩ := h
  cases a with
  | clear | load => obtain rfl := hempty (by simp); rfl
  | read | write => rfl

/-- Settles O28: the payload checks pass, and the one instruction's invocation is that of the header asked for. -/
theorem everyPairIsIssuedAsAsked : Obligations.EveryPairIsIssuedAsAsked := by
  refine ⟨?_, ?_, ?_⟩
  · intro h data s rest hready hempty hshort
    have hok : payloadFits h.action data = true := by
      rw [← Bool.not_eq_false, payloadFits_eq_false_iff]
      rintro (⟨hcl, hne⟩ | ⟨hw, hlong⟩)
      · exact hne (hempty hcl)
      · exact absurd (hshort hw) (Nat.not_le.mpr hlong)
    exact step_sends hready hok rfl ((invocationOf_ofHeader h data).trans (invocationOf_eq_ite h hempty))
  · intro target data s rest hready hshort
    exact step_sends hready (decide_eq_true hshort) rfl (invocationOf_ofHeader _ _)
  · intro target s rest hready
    exact step_sends hready rfl rfl (invocationOf_ofHeader _ _)

/-- Settles O41: the operation is the one Read of its header, which keeps none of the data. -/
theorem actReadOperation : Obligations.ActReadOperation := fun _ _ _ _ hready =>
  ⟨fun _ hr => step_of_success hready rfl rfl (invocationOf_ofHeader _ _) hr rfl rfl,
    fun _ he => step_of_failure hready rfl rfl (invocationOf_ofHeader _ _) he⟩

/-- R168: being turned away takes the request and gives the error, and changes nothing else of an idle block. -/
theorem respond_payloadTooBig_of_idle {s : State} (rest : List Request) (hidle : s.inFlight = none) :
    respond (.err .payloadTooBig) (s.setRequests rest) =
      { s with requests := rest, link := .quiet, responses := s.responses ++ [.err .payloadTooBig] } := by
  simp [respond, State.setRequests, hidle]

/-- Settles O58: what is too big fails its size contract; the operation's check and the decoder both ask it before the bus. -/
theorem payloadTooBigBeforeAnyBusActivity : Obligations.PayloadTooBigBeforeAnyBusActivity := by
  refine ⟨?_, ?_, ?_⟩
  · intro s o rest hready hbig
    have hnot : Operation.payloadOk o = false := by
      obtain ⟨t, data, rfl, hlong⟩ | ⟨h, data, rfl, hsize⟩ := hbig
      · exact (payloadFits_eq_false_iff _ _).mpr (.inr ⟨rfl, hlong⟩)
      · exact (payloadFits_eq_false_iff _ _).mpr hsize.symm
    have hstep := step_ready_operation hready
    obtain ⟨-, hidle, -⟩ := hready
    rw [hstep, if_neg (by simp [hnot]), respond_payloadTooBig_of_idle rest hidle]
  · intro b data h hheader hsize
    have hnot : payloadFits h.action data = false := (payloadFits_eq_false_iff _ _).mpr hsize.symm
    rw [decode_cons hheader, if_neg (by simp [hnot])]
  · intro s bytes rest hready hdecode
    have hstep := step_ready hready
    obtain ⟨-, hidle, hrequests⟩ := hready
    rw [hstep, accept, hrequests]
    simp only [hdecode, respond_payloadTooBig_of_idle rest hidle]

/-- Settles O57: the failed invocation of the current step ends its operation. -/
theorem transportErrorEndsTheOperation : Obligations.TransportErrorEndsTheOperation := by
  intro s c i e hfree hc hcurrent hwf he
  have hrun := runCurrent_of_failure hfree.2 hcurrent hwf he
  rw [step_inFlight hfree hc, hrun, respond_issued, he]
  rfl

/-- Settles O60: a success that is not the last advances the context and frees the interface. -/
theorem successAdvancesTheStepIndex : Obligations.SuccessAdvancesTheStepIndex := by
  intro s c i r hfree hc hcurrent hwf hmore hr
  exact ⟨_, (step_inFlight hfree hc).trans (runCurrent_of_success_more hfree.2 hcurrent hwf hr hmore), rfl, rfl, rfl, rfl⟩

/-- R197: after a step that hangs the interface is held and every further step waits. -/
theorem step_issued_of_hang {s : State} {c : Context} {i : Instr} (hcalls : s.codecCalls = [])
    (hhang : s.answerAt 0 = .hang) :
    (s.issued c i).link = .waiting (invocationOf i.header i.payload) ∧ step (s.issued c i) = .next (s.issued c i) := by
  have hlink : (s.issued c i).link = .waiting (invocationOf i.header i.payload) := by
    rw [State.issued_link, hhang]; rfl
  exact ⟨hlink, step_blocked hcalls (by rw [hlink]; rfl)⟩

/-- Settles O55: the invocation holds the interface, and a blocked engine waits for ever. -/
theorem hangKeepsTheOperationInFlight : Obligations.HangKeepsTheOperationInFlight := by
  intro s c i hfree hc hcurrent hwf hhang
  obtain ⟨hlink, hfixed⟩ := step_issued_of_hang (c := c) (i := i) hfree.1 hhang
  exact ⟨_, (step_inFlight hfree hc).trans (runCurrent_of_hang hfree.2 hcurrent hwf hhang), rfl, hlink, rfl,
    runSteps_fixed hfixed⟩

/-! Whether there is a step is decided by what is asked, not by what is answered (R53). -/

@[simp] theorem isNext_next (s : State) : isNext (.next s) = true := rfl
@[simp] theorem isNext_refused (r : Refusal) : isNext (.refused r) = false := rfl
@[simp] theorem isNext_fault (f : Fault) : isNext (.fault f) = false := rfl

theorem isNext_serveCodec (c : CodecCall) (rest : List CodecCall) (s : State) :
    isNext (serveCodec c rest s) = (evalCodec c).isSome := by
  cases hv : evalCodec c <;> simp [serveCodec, hv]

theorem isNext_runCurrent (c : Context) (s : State) : isNext (runCurrent c s) = (Context.current c).isSome := by
  cases hc : Context.current c with
  | none => simp [runCurrent, hc]
  | some i =>
    obtain ⟨t, -, hrun⟩ := runCurrent_eq hc s
    simp [hrun]

theorem isNext_accept_congr {s s' : State} (h : s'.requests = s.requests) : isNext (accept s') = isNext (accept s) := by
  unfold accept
  rw [h]
  cases s.requests with
  | nil => rfl
  | cons r rest =>
    cases r with
    | operation o => cases hok : Operation.payloadOk o <;> simp [hok, isNext_runCurrent]
    | encoded bytes =>
      cases hdecode : decode bytes with
      | ok i => simp [hdecode, isNext_runCurrent]
      | err e => cases e <;> simp [hdecode]

/-- Settles O54: the codec port, the operation in flight and the acceptance each have a step by what they hold. -/
theorem stepExistsWhateverTheAnswers : Obligations.StepExistsWhateverTheAnswers := by
  intro s as d
  cases hcalls : s.codecCalls with
  | cons c rest => simp [step, hcalls, isNext_serveCodec]
  | nil =>
    cases hb : s.link.blocked with
    | true => simp [step, hcalls, runEngine, hb]
    | false =>
      cases hc : s.inFlight with
      | some c => simp [step, hcalls, runEngine, hb, hc, isNext_runCurrent]
      | none =>
        simp only [step, hcalls, runEngine, hb, hc]
        exact isNext_accept_congr rfl

end Sys2Proof.Machine
end

section
/-! PROOFS. What every step keeps: the shape of what it appends (R47, R50, R165), the legality of frames, responses and codec values
(R40, R41, R81, R117, R170), and the invariant they make up. -/

namespace Sys2Proof.Machine

open Sys2Proof

/-! What the invariant says of each observed list. -/

/-- R61, R62: an emitted header byte: reserved bits zero, target code not 111, the action's code on top. -/
theorem Header.encode_masks (h : InstructionHeader) :
    Header.encode h &&& 0x07#8 = 0x00#8 ∧ Header.encode h &&& 0x38#8 ≠ 0x38#8 ∧
      Header.encode h &&& 0xC0#8 = place (Action.encode h.action) 6 := by
  obtain ⟨t, a⟩ := h
  cases t <;> cases a <;> decide

/-- R38, R39: a write is never answered with captured bytes, a transfer never without. -/
theorem busResult_legal (a : Answer) :
    (busResult .writeBytes a).ofWrite = true ∧ (busResult .transferBytes a).ofTransfer = true := by
  cases a <;> exact ⟨rfl, rfl⟩

/-- R40, R41: a well-formed instruction's invocation is a legal entry of the trace, however it is answered. -/
theorem event_legal {i : Instr} (hwf : i.wf = true) (answer : Answer) :
    Event.legal ⟨invocationOf i.header i.payload, busResult (primitiveOf i.action) answer⟩ = true := by
  obtain ⟨hreserved, htarget, haction⟩ := Header.encode_masks i.header
  obtain ⟨hwrite, htransfer⟩ := busResult_legal answer
  have hfits : payloadFits i.action i.payload = true := (wf_eq_payloadFits i).symm.trans hwf
  have hshort : i.action = .write → i.payload.length ≤ 4 := by
    intro ha
    rw [ha] at hfits
    exact of_decide_eq_true hfits
  have hheader : i.header.action = i.action := rfl
  cases ha : i.action <;>
    simp_all [Event.legal, invocationOf, frameOf, frameTail, primitiveOf, Action.encode, place]

/-- R117 (c): a count lies within the magnitude of 4 bytes. -/
theorem reconstruct_range {bytes : List Byte} {sign : Sign} {c : SignedCount} (h : reconstruct bytes sign = some c) :
    -4294967295 ≤ c.toInt ∧ c.toInt ≤ 4294967295 := by
  have hlen : bytes.length ≤ 4 := by
    rw [← Nat.not_lt, ← reconstruct_eq_none_iff bytes sign, h]; simp
  have hmagnitude := foldBigEndian_lt_of_length_le hlen
  rw [reconstruct_of_length_le sign hlen] at h
  obtain rfl := Option.some.inj h
  rw [toInt_ofInt_signedMagnitude sign hmagnitude, signedMagnitude]
  split <;> omega

/-- R41, R166: an instruction captures 0 or 4 bytes. -/
theorem replyBytes_eq (i : Instr) : replyBytes i = 0 ∨ replyBytes i = 4 := by
  unfold replyBytes
  cases i.action <;> simp [Config.readDataLen]

/-- R166: the response of a job whose steps have all captured their bytes is one the host can get. -/
theorem finish_legal {j : Job} {captured : List Byte} {resp : Response}
    (hlen : captured.length = ((Job.program j).map replyBytes).sum) (h : Job.finish j captured = some resp) :
    responseLegal resp = true := by
  have hsingle (i : Instr) (hi : Job.program j = [i]) : responseLegal (.ok (.bytes captured)) = true := by
    have hreply := replyBytes_eq i
    simp [hi] at hlen
    simpa [responseLegal, hlen] using hreply
  unfold Job.finish at h
  split at h
  · obtain rfl := Option.some.inj h; rfl
  · obtain rfl := Option.some.inj h; exact hsingle _ rfl
  · obtain rfl := Option.some.inj h; exact hsingle _ rfl
  · split at h
    · obtain rfl := Option.some.inj h; simp [statusResponse, Str.decode_eq_ok, responseLegal]
    · cases h
  · split at h
    · simp only [countResponse, Str.decode_eq_ok, Option.map_eq_some_iff] at h
      obtain ⟨c, hc, rfl⟩ := h
      exact decide_eq_true (reconstruct_range hc)
    · cases h
  · obtain rfl := Option.some.inj h; rfl
  · obtain rfl := Option.some.inj h; exact hsingle _ rfl

theorem resultFailed_of_ok {α : Type} {r : Result DecodeFailure α} {v : α} (h : r = .ok v) : resultFailed r = false := by
  rw [h]; rfl

/-- A decoder whose encoder reaches every code fails on none. -/
theorem resultFailed_decode {α : Type} {n : Nat} {encode : α → BitVec n} {decode : BitVec n → Result DecodeFailure α}
    (hinv : ∀ m, decode (encode m) = .ok m) (hsurj : Function.Surjective encode) (c : BitVec n) :
    resultFailed (decode c) = false := by
  obtain ⟨m, rfl⟩ := hsurj c
  exact resultFailed_of_ok (hinv m)

/-- R81: no codec call gives a decode failure. -/
theorem evalCodec_not_failed {c : CodecCall} {v : CodecValue} (h : evalCodec c = some v) : CodecValue.failed v = false := by
  cases c
  case bytesToUnsigned bytes => obtain ⟨n, -, rfl⟩ := Option.map_eq_some_iff.mp h; rfl
  case reconstruct bytes sign => obtain ⟨n, -, rfl⟩ := Option.map_eq_some_iff.mp h; rfl
  all_goals obtain rfl := Option.some.inj h
  case targetDecode c =>
    obtain ⟨t, ht, -⟩ := Target.exists_decode_eq_ok c
    exact resultFailed_of_ok ht
  case headerDecode b =>
    obtain ⟨hd, hb, -⟩ := Header.exists_decode_eq_ok b
    exact resultFailed_of_ok hb
  case mdr0Decode b =>
    obtain ⟨c, hb, -⟩ := Mdr0.exists_decode_eq_ok b
    exact resultFailed_of_ok hb
  case mdr1Decode b =>
    obtain ⟨c, hb, -⟩ := Mdr1.exists_decode_eq_ok b
    exact resultFailed_of_ok hb
  case strDecode b => exact resultFailed_of_ok (Str.decode_eq_ok b)
  case actionDecode c => exact resultFailed_decode Action.decode_encode Action.encode_surjective c
  case quadModeDecode c => exact resultFailed_decode QuadMode.decode_encode QuadMode.encode_surjective c
  case cycleModeDecode c => exact resultFailed_decode CycleMode.decode_encode CycleMode.encode_surjective c
  case indexModeDecode c => exact resultFailed_decode IndexMode.decode_encode IndexMode.encode_surjective c
  case filterClockDecode c => exact resultFailed_decode FilterClock.decode_encode FilterClock.encode_surjective c
  case counterModeDecode c => exact resultFailed_decode CounterMode.decode_encode CounterMode.encode_surjective c
  case boolDecode c => exact resultFailed_decode BoolCode.decode_encode BoolCode.encode_surjective c
  case signDecode c => exact resultFailed_of_ok (SignCode.decode_eq_ok rfl)
  case directionDecode c => exact resultFailed_of_ok (DirectionCode.decode_eq_ok rfl)
  all_goals rfl

/-! The step of an operation in flight, whatever it leads to. -/

section Ran

variable {c : Context} {s t : State}

/-- R165: the operation in flight touches neither host queue nor the codec values. -/
theorem Ran.ports (h : Ran c s t) :
    t.requests = s.requests ∧ t.codecCalls = s.codecCalls ∧ t.codecResults = s.codecResults := by
  cases h <;> exact ⟨rfl, rfl, rfl⟩

/-- R47: at most one invocation is made. -/
theorem Ran.trace (h : Ran c s t) : ∃ es, t.trace = s.trace ++ es ∧ es.length ≤ 1 := by
  cases h with
  | tooBig => exact ⟨[], (List.append_nil _).symm, Nat.zero_le 1⟩
  | advanced | finished | failed | hung => exact ⟨_, rfl, Nat.le_refl 1⟩

/-- R50 (c), R165: the operation stays in flight with no response, or it is over with exactly one that the host can get. -/
theorem Ran.job_or_response (h : Ran c s t) :
    (∃ c', t.inFlight = some c' ∧ c'.job = c.job ∧ t.responses = s.responses) ∨
      (t.inFlight = none ∧ t.link = .quiet ∧
        ∃ resp, t.responses = s.responses ++ [resp] ∧ responseLegal resp = true) := by
  cases h with
  | advanced => exact .inl ⟨_, rfl, rfl, rfl⟩
  | hung => exact .inl ⟨c, rfl, rfl, rfl⟩
  | finished hc _ _ hlast hfinish => exact .inr ⟨rfl, rfl, _, rfl, finish_legal (captured_of_last hc hlast _) hfinish⟩
  | failed => exact .inr ⟨rfl, rfl, _, rfl, rfl⟩
  | tooBig => exact .inr ⟨rfl, rfl, _, rfl, rfl⟩

/-- R50: a response given by the operation in flight leaves the codec port as it was. -/
theorem Ran.responses (h : Ran c s t) :
    t.responses = s.responses ∨
      (t.inFlight = none ∧ t.link = .quiet ∧ t.codecCalls = s.codecCalls ∧ t.codecResults = s.codecResults ∧
        ∃ resp, t.responses = s.responses ++ [resp] ∧ responseLegal resp = true) := by
  obtain ⟨-, hcalls, hresults⟩ := h.ports
  obtain ⟨c', -, -, hnone⟩ | ⟨hidle, hlink, hone⟩ := h.job_or_response
  · exact .inl hnone
  · exact .inr ⟨hidle, hlink, hcalls, hresults, hone⟩

end Ran

/-- R50, R166: what a whole step gives the host: nothing, or one response that the host can get, and then nothing is in flight and
the codec port is as before. -/
theorem Stepped.responses {s t : State} (h : Stepped s t) :
    t.responses = s.responses ∨
      (t.inFlight = none ∧ t.link = .quiet ∧ t.codecCalls = s.codecCalls ∧ t.codecResults = s.codecResults ∧
        ∃ resp, t.responses = s.responses ++ [resp] ∧ responseLegal resp = true) := by
  cases h with
  | served | waited => exact .inl rfl
  | ran _ hran => exact hran.responses
  | accepted _ _ _ hran => exact hran.responses
  | turnedAway => exact .inr ⟨rfl, rfl, rfl, rfl, _, rfl, rfl⟩

/-- Settles O50: the one response a step can append is one the host can get, and a `Decode` error is none. -/
theorem decodeErrorIsNeverGiven : Obligations.DecodeErrorIsNeverGiven := by
  intro s t f hstep hmem
  obtain hnone | ⟨-, -, -, -, resp, hone, hlegal⟩ := (stepped_of_step hstep).responses
  · exact hnone ▸ hmem
  · rw [hone, List.mem_append, List.mem_singleton] at hmem
    exact hmem.resolve_right fun h => by simp [← h, responseLegal] at hlegal

/-- Settles O51: the trace by the kinds of step, the responses by what a step gives the host. -/
theorem stepAppendsInOrder : Obligations.StepAppendsInOrder := by
  intro s t hstep
  have hstepped := stepped_of_step hstep
  constructor
  · cases hstepped with
    | served | waited | turnedAway => exact ⟨[], (List.append_nil _).symm, Nat.zero_le 1⟩
    | ran _ hran => exact hran.trace
    | accepted _ _ _ hran => exact hran.trace
  · obtain hnone | ⟨hidle, hlink, -, -, resp, hone, -⟩ := hstepped.responses
    · exact ⟨[], by simpa using hnone, Nat.zero_le 1, fun h => absurd rfl h⟩
    · exact ⟨[resp], hone, Nat.le_refl 1, fun _ => ⟨hidle, hlink⟩⟩

/-- Settles O59: a step that appended a response left the block idle and the codec port alone. -/
theorem errorsLeaveNothingBehind : Obligations.ErrorsLeaveNothingBehind := by
  intro s t e hstep herr
  obtain hnone | ⟨hidle, hlink, hcalls, hresults, -⟩ := (stepped_of_step hstep).responses
  · simp [herr] at hnone
  · exact ⟨hidle, hlink, hcalls, hresults⟩

/-- Settles O52: only an acceptance takes a request, and it needs nothing in flight. -/
theorem oneOperationAtATime : Obligations.OneOperationAtATime := by
  intro s t hstep
  cases stepped_of_step hstep with
  | served | waited => exact ⟨fun c hc => ⟨rfl, .inl ⟨c, hc, rfl, rfl⟩⟩, .inl rfl⟩
  | ran hc hran =>
    refine ⟨fun c' hc' => ?_, .inl hran.ports.1⟩
    obtain rfl := Option.some.inj (hc.symm.trans hc')
    exact ⟨hran.ports.1, hran.job_or_response.imp id fun ⟨hidle, _, resp, hone, _⟩ => ⟨hidle, resp, hone⟩⟩
  | @accepted r rest j t hready hjob hok hran =>
    obtain ⟨-, hidle, hrequests⟩ := hready
    refine ⟨fun c hc => absurd (hidle.symm.trans hc) (by simp), .inr ⟨r, ?_, ?_⟩⟩
    · rw [hrequests, hran.ports.1]; rfl
    · exact hran.job_or_response.imp (fun ⟨c', hc', hsame, hnone⟩ => ⟨c', hc', by rw [hjob, hsame]; rfl, hnone⟩)
        fun ⟨hover, _, resp, hone, _⟩ => ⟨hover, resp, hone⟩
  | turnedAway hready =>
    obtain ⟨-, hidle, hrequests⟩ := hready
    exact ⟨fun c hc => absurd (hidle.symm.trans hc) (by simp), .inr ⟨_, hrequests, .inr ⟨rfl, _, rfl⟩⟩⟩

/-! The invariant. -/

/-- R33: after a step that succeeded and is not the last, the context is at the next step with the bytes of those before. -/
theorem Context.next_wf {c : Context} {i : Instr} (hwf : c.wf = true) (hc : Context.current c = some i)
    (hmore : c.index + 1 < (Job.program c.job).length) (r : ReadResponse) :
    (c.next (replyData i.action r)).wf = true := by
  have hcurrent : Context.current (c.next (replyData i.action r)) = some (Job.program c.job)[c.index + 1] := by
    exact (if_pos (captured_next hc (length_replyData i r))).trans (List.getElem?_eq_getElem hmore)
  rw [Context.wf, Bool.and_eq_true] at hwf ⊢
  exact ⟨by rw [hcurrent]; rfl, hwf.2⟩

/-- A response that ends the operation in flight keeps the invariant, if it and the trace are legal. -/
theorem State.Inv.respond {s t : State} (h : s.Inv) (htrace : ∀ e ∈ t.trace, e.legal = true)
    (hresponses : t.responses = s.responses) (hresults : t.codecResults = s.codecResults) {resp : Response}
    (hresp : responseLegal resp = true) : (Machine.respond resp t).Inv where
  trace_legal := htrace
  context_ok := by intro c hc; cases hc
  link_ok := .inl rfl
  responses_legal := List.forall_mem_append.mpr ⟨hresponses ▸ h.responses_legal, List.forall_mem_singleton.mpr hresp⟩
  codec_ok := hresults ▸ h.codec_ok

/-- The step of an operation in flight keeps the invariant. -/
theorem Ran.inv {c : Context} {s t : State} (hinv : s.Inv) (hwf : c.wf = true) (hran : Ran c s t) : t.Inv := by
  have hissued {i : Instr} (hi : i.wf = true) : ∀ e ∈ (s.issued c i).trace, e.legal = true :=
    List.forall_mem_append.mpr ⟨hinv.trace_legal, List.forall_mem_singleton.mpr (event_legal hi _)⟩
  cases hran with
  | advanced hc hi hr hmore =>
    exact ⟨hissued hi, fun c' hc' => Option.some.inj hc' ▸ Context.next_wf hwf hc hmore _, .inl rfl,
      hinv.responses_legal, hinv.codec_ok⟩
  | finished hc hi hr hlast hfinish =>
    exact hinv.respond (hissued hi) rfl rfl (finish_legal (captured_of_last hc hlast _) hfinish)
  | failed hc hi he => exact hinv.respond (hissued hi) rfl rfl rfl
  | @hung i hc hi hhang =>
    refine ⟨hissued hi, fun c' hc' => Option.some.inj hc' ▸ hwf, .inr ⟨c, i, rfl, hc, ?_, ?_⟩,
      hinv.responses_legal, hinv.codec_ok⟩
    · rw [State.issued_link, hhang]; rfl
    · rw [State.issued, invoke_trace, answerAt_setContext, hhang, List.getLast?_append]; rfl
  | tooBig => exact hinv.respond hinv.trace_legal rfl rfl rfl

/-- Settles O48: each kind of step keeps the invariant; an input touches none of the fields it speaks of. -/
theorem stepsAndInputsKeepInvariant : Obligations.StepsAndInputsKeepInvariant := by
  intro s hinv
  obtain ⟨htrace, hcontext, hlink, hresponses, hresults⟩ := hinv
  refine ⟨fun t hstep => ?_, fun r => ⟨htrace, hcontext, hlink, hresponses, hresults⟩,
    fun c => ⟨htrace, hcontext, hlink, hresponses, hresults⟩, fun a => ⟨htrace, hcontext, hlink, hresponses, hresults⟩⟩
  cases stepped_of_step hstep with
  | served hcalls hv =>
    exact ⟨htrace, hcontext, hlink, hresponses,
      List.forall_mem_append.mpr ⟨hresults, List.forall_mem_singleton.mpr (evalCodec_not_failed hv)⟩⟩
  | waited => exact ⟨htrace, hcontext, hlink, hresponses, hresults⟩
  | ran hc hran => exact hran.inv ⟨htrace, hcontext, hlink, hresponses, hresults⟩ (hcontext _ hc)
  | @accepted r rest j t hready hjob hok hran =>
    exact hran.inv (s := s.setRequests rest) ⟨htrace, hcontext, hlink, hresponses, hresults⟩ (start_wf hok)
  | @turnedAway r rest =>
    exact State.Inv.respond (t := s.setRequests rest) (resp := .err .payloadTooBig)
      ⟨htrace, hcontext, hlink, hresponses, hresults⟩ htrace rfl rfl rfl

/-- Settles O47: nothing is in flight, held or observed at reset. -/
theorem resetSatisfiesInvariant : Obligations.ResetSatisfiesInvariant where
  trace_legal := by simp [State.reset]
  context_ok := by simp [State.reset]
  link_ok := .inl rfl
  responses_legal := by simp [State.reset]
  codec_ok := by simp [State.reset]

/-- Settles O49: a context in order has a current instruction, and an idle block stops only at an empty sequence of bytes. -/
theorem stepStopsOnlyOnMalformedInput : Obligations.StepStopsOnlyOnMalformedInput := by
  intro s hinv
  cases hcalls : s.codecCalls with
  | cons c rest =>
    cases hv : evalCodec c with
    | some v => exact .inl ⟨_, step_of_evalCodec_some hcalls hv⟩
    | none => exact .inr (.inr ⟨step_of_evalCodec_none hcalls hv, c, rest, rfl, hv⟩)
  | nil =>
    cases hb : s.link.blocked with
    | true => exact .inl ⟨s, step_blocked hcalls hb⟩
    | false =>
      have hruns {c : Context} (u : State) (hu : u.link.blocked = false) (hwf : c.wf = true) :
          ∃ t, runCurrent c u = .next t := by
        obtain ⟨i, hc, -⟩ := current_of_wf hwf
        obtain ⟨t, hrun, -⟩ := exists_ran hu hc
        exact ⟨t, hrun⟩
      cases hc : s.inFlight with
      | some c =>
        rw [step_inFlight ⟨hcalls, hb⟩ hc]
        exact .inl (hruns s hb (hinv.context_ok c hc))
      | none =>
        cases hrequests : s.requests with
        | nil => exact .inl ⟨s, step_idle ⟨hcalls, hb⟩ hc hrequests⟩
        | cons r rest =>
          have hready : s.Ready r rest := ⟨⟨hcalls, hb⟩, hc, hrequests⟩
          rw [step_ready hready]
          obtain ⟨j, -, hok, haccept⟩ | haccept | ⟨rfl, haccept⟩ := accept_cases hrequests
          · rw [haccept]
            exact .inl (hruns (s.setRequests rest) hb (start_wf hok))
          · exact .inl ⟨_, haccept⟩
          · exact .inr (.inl ⟨haccept, rest, hready⟩)

end Sys2Proof.Machine
end

section
/-! PROOFS. Running a job to its end: the run of its program against a stream of answers, which the machine performs one invocation
a step (R16, R50, R197), and which ends if every invocation returns (R8). -/

namespace Sys2Proof.Machine

open Sys2Proof

/-- One invocation of a run and what follows from its answer: go on, end with the transport's error, or wait for ever. -/
def busStep (inv : Invocation) (answer : Answer) (cont : ReadResponse → Run) : Run :=
  match answer with
  | .success r => Reference.withEvent ⟨inv, busResult inv.primitive (.success r)⟩ (cont r)
  | .failure e => Reference.withEvent ⟨inv, .failed e⟩ (Reference.done (.err (.transport e)))
  | .hang => { events := [⟨inv, .notReturned⟩], response := none }

/-- The run of the instructions `is` after `captured`, the k-th of them answered by `ans k`, with the response `finish` gives. -/
def programRun (finish : List Byte → Option Response) : List Instr → List Byte → (Nat → Answer) → Run
  | [], captured, _ => { events := [], response := finish captured }
  | i :: is, captured, ans =>
    busStep (invocationOf i.header i.payload) (ans 0) fun r =>
      programRun finish is (captured ++ replyData i.action r) fun k => ans (k + 1)

section ProgramRun

variable {finish : List Byte → Option Response} {i : Instr} {is : List Instr} {captured : List Byte} {ans : Nat → Answer}

@[simp] theorem programRun_nil : programRun finish [] captured ans = ⟨[], finish captured⟩ := rfl

theorem programRun_success {r : ReadResponse} (h : ans 0 = .success r) :
    programRun finish (i :: is) captured ans =
      Reference.withEvent ⟨invocationOf i.header i.payload, busResult (primitiveOf i.action) (.success r)⟩
        (programRun finish is (captured ++ replyData i.action r) fun k => ans (k + 1)) := by
  rw [programRun, h]; rfl

theorem programRun_failure {e : TransportError} (h : ans 0 = .failure e) :
    programRun finish (i :: is) captured ans =
      ⟨[⟨invocationOf i.header i.payload, .failed e⟩], some (.err (.transport e))⟩ := by
  rw [programRun, h]; rfl

theorem programRun_hang (h : ans 0 = .hang) :
    programRun finish (i :: is) captured ans = ⟨[⟨invocationOf i.header i.payload, .notReturned⟩], none⟩ := by
  rw [programRun, h]; rfl

/-- A run makes at most one invocation for each instruction. -/
theorem length_programRun_events_le (is : List Instr) (captured : List Byte) (ans : Nat → Answer) :
    (programRun finish is captured ans).events.length ≤ is.length := by
  induction is generalizing captured ans with
  | nil => exact Nat.le_refl 0
  | cons i is ih =>
    cases h : ans 0 with
    | success r =>
      rw [programRun_success h]
      exact Nat.succ_le_succ (ih _ _)
    | failure e => simp [programRun_failure h]
    | hang => simp [programRun_hang h]

/-- A run with an instruction makes an invocation. -/
theorem length_programRun_events_pos : 1 ≤ (programRun finish (i :: is) captured ans).events.length := by
  cases h : ans 0 with
  | success r => rw [programRun_success h]; exact Nat.succ_le_succ (Nat.zero_le _)
  | failure e => simp [programRun_failure h]
  | hang => simp [programRun_hang h]

/-- R8: a run whose invocations all return has a response, if the bytes of all its instructions make one up. -/
theorem exists_programRun_response {total : Nat} (hfinish : ∀ bytes, bytes.length = total → ∃ resp, finish bytes = some resp)
    (is : List Instr) (captured : List Byte) (ans : Nat → Answer)
    (htotal : captured.length + (is.map replyBytes).sum = total) (hreturns : ∀ k < is.length, ans k ≠ .hang) :
    ∃ resp, (programRun finish is captured ans).response = some resp := by
  induction is generalizing captured ans with
  | nil => exact hfinish captured htotal
  | cons i is ih =>
    cases h : ans 0 with
    | success r =>
      rw [programRun_success h]
      refine ih _ _ ?_ fun k hk => hreturns (k + 1) (Nat.succ_lt_succ hk)
      simpa [Nat.add_assoc] using htotal
    | failure e => exact ⟨_, by rw [programRun_failure h]⟩
    | hang => exact absurd h (hreturns 0 (Nat.succ_pos _))

/-- R38, R120: the instruction is a write of the frame. -/
def Writes (i : Instr) (frame : List Byte) : Prop := invocationOf i.header i.payload = ⟨.writeBytes, frame⟩

/-- R38: a write that succeeds hands back no bytes. -/
theorem programRun_write_success {frame : List Byte} (hi : Writes i frame) {r : ReadResponse} (hr : ans 0 = .success r) :
    programRun finish (i :: is) captured ans =
      Reference.withEvent ⟨⟨.writeBytes, frame⟩, .done⟩ (programRun finish is captured fun k => ans (k + 1)) := by
  have hprimitive : primitiveOf i.action = .writeBytes := congrArg Invocation.primitive hi
  have hreply : replyData i.action r = [] := if_neg fun ha => by simp [ha, primitiveOf] at hprimitive
  rw [programRun_success hr, hreply, List.append_nil, hprimitive, hi]
  rfl

/-- R161: a run of writes that all succeed. -/
theorem programRun_of_writes {frames : List (List Byte)} (hwrites : List.Forall₂ Writes is frames)
    (h : ∀ k < frames.length, ∃ r, ans k = .success r) :
    programRun finish is captured ans = ⟨frames.map fun f => ⟨⟨.writeBytes, f⟩, .done⟩, finish captured⟩ := by
  induction hwrites generalizing ans with
  | nil => rfl
  | cons hi _ ih =>
    obtain ⟨r, hr⟩ := h 0 (Nat.succ_pos _)
    rw [programRun_write_success hi hr, ih fun k hk => h (k + 1) (Nat.succ_lt_succ hk)]
    rfl

/-- R162: a run of writes whose first failure is at the k-th makes the invocations up to that one. -/
theorem programRun_of_writes_failure {frames : List (List Byte)} (hwrites : List.Forall₂ Writes is frames) {k : Nat}
    (hk : k < frames.length) {e : TransportError} (h : ∀ j < k, ∃ r, ans j = .success r) (he : ans k = .failure e) :
    programRun finish is captured ans =
      ⟨(frames.take k).map (fun f => ⟨⟨.writeBytes, f⟩, .done⟩) ++ [⟨⟨.writeBytes, frames.getD k []⟩, .failed e⟩],
        some (.err (.transport e))⟩ := by
  induction hwrites generalizing ans k with
  | nil => exact absurd hk (Nat.not_lt_zero k)
  | cons hi _ ih =>
    cases k with
    | zero => rw [programRun_failure he, hi]; rfl
    | succ k =>
      obtain ⟨r, hr⟩ := h 0 (Nat.succ_pos _)
      rw [programRun_write_success hi hr,
        ih (Nat.lt_of_succ_lt_succ hk) (fun j hj => h (j + 1) (Nat.succ_lt_succ hj)) he]
      rfl

end ProgramRun

/-- The machine, from `s`, performs a run in as many steps as the run has invocations: with a response it ends answered, the
requests `rest` still waiting; without one it ends waiting for ever. -/
def Performs (s : State) (rest : List Request) (run : Run) : Prop :=
  (∀ resp, run.response = some resp → runSteps run.events.length s = .next (s.answered rest run.events resp)) ∧
  (run.response = none → ∃ t, runSteps run.events.length s = .next t ∧ t.trace = s.trace ++ run.events ∧
    t.responses = s.responses ∧ t.requests = rest ∧ t.inFlight ≠ none ∧ t.link.blocked = true ∧ step t = .next t)

/-- What is answered after a step that goes on is answered with that step's event first. -/
theorem answered_advanced (s : State) (c : Context) (i : Instr) (r : ReadResponse) (rest : List Request)
    (es : List Event) (resp : Response) :
    (s.advanced c i r).answered rest es resp = s.answered rest
      (⟨invocationOf i.header i.payload, busResult (primitiveOf i.action) (s.answerAt 0)⟩ :: es) resp := by
  simp [State.answered, State.advanced, State.issued, Nat.add_comm, Nat.add_left_comm, invocationOf, Instr.header]

/-- A step that goes on performs its event before what the next state performs. -/
theorem performs_advanced {s : State} {c : Context} {i : Instr} {r : ReadResponse} {rest : List Request} {run : Run}
    (hstep : step s = .next (s.advanced c i r)) (hr : s.answerAt 0 = .success r)
    (h : Performs (s.advanced c i r) rest run) :
    Performs s rest (Reference.withEvent
      ⟨invocationOf i.header i.payload, busResult (primitiveOf i.action) (.success r)⟩ run) := by
  obtain ⟨hends, hwaits⟩ := h
  constructor
  · intro resp hresp
    refine (runSteps_next _ hstep).trans ((hends resp hresp).trans ?_)
    rw [answered_advanced, hr]
    rfl
  · intro hnone
    obtain ⟨t, hrun, htrace, hresponses, hrest⟩ := hwaits hnone
    refine ⟨t, (runSteps_next _ hstep).trans hrun, ?_, hresponses, hrest⟩
    have hevent : (s.advanced c i r).trace =
        s.trace ++ [⟨invocationOf i.header i.payload, busResult (primitiveOf i.action) (.success r)⟩] := by
      rw [← hr]; rfl
    rw [htrace, hevent, List.append_assoc]
    rfl

section InFlight

variable {s : State} {c : Context} {i : Instr} {is : List Instr} (hfree : s.Free) (hc : s.inFlight = some c)
  (hcurrent : Context.current c = some i) (hwf : i.wf = true) {finish : List Byte → Option Response}

include hfree hc hcurrent hwf

/-- R54: a failure ends the operation there. -/
theorem performs_of_failure {e : TransportError} (he : s.answerAt 0 = .failure e) :
    Performs s s.requests (programRun finish (i :: is) c.captured s.answerAt) := by
  have hstep := (step_inFlight hfree hc).trans (runCurrent_of_failure hfree.2 hcurrent hwf he)
  rw [respond_issued, he] at hstep
  rw [programRun_failure he]
  refine ⟨fun resp hresp => ?_, fun hnone => nomatch hnone⟩
  obtain rfl := Option.some.inj hresp
  exact runSteps_next 0 hstep

/-- R197: an invocation that does not return is waited for. -/
theorem performs_of_hang (hhang : s.answerAt 0 = .hang) :
    Performs s s.requests (programRun finish (i :: is) c.captured s.answerAt) := by
  have hstep := (step_inFlight hfree hc).trans (runCurrent_of_hang hfree.2 hcurrent hwf hhang)
  obtain ⟨hlink, hfixed⟩ := step_issued_of_hang (c := c) (i := i) hfree.1 hhang
  rw [programRun_hang hhang]
  refine ⟨fun resp hresp => (nomatch hresp), fun _ => ⟨s.issued c i, runSteps_next 0 hstep, ?_, rfl, rfl, ?_, ?_, hfixed⟩⟩
  · rw [State.issued, invoke_trace, answerAt_setContext, hhang]; rfl
  · exact Option.some_ne_none c
  · rw [hlink]; rfl

end InFlight

/-- What is left of a program at an index: the instruction there, and what is left at the next. -/
theorem drop_eq_cons {α : Type} {l is : List α} {n : Nat} {i : α} (h : l.drop n = i :: is) :
    l[n]? = some i ∧ l.drop (n + 1) = is ∧ l.length = n + 1 + is.length := by
  have hlength : l.length - n = is.length + 1 := by rw [← List.length_drop, h, List.length_cons]
  exact ⟨by rw [← List.head?_drop, h]; rfl, by rw [← List.tail_drop, h]; rfl, by omega⟩

/-- R33: a context in order whose program goes on with `i` is at `i`. -/
theorem current_of_drop_eq_cons {c : Context} {i : Instr} {is : List Instr} (hcwf : c.wf = true)
    (hleft : (Job.program c.job).drop c.index = i :: is) : Context.current c = some i ∧ i.wf = true := by
  obtain ⟨i', hcurrent, hwf⟩ := current_of_wf hcwf
  obtain rfl := Option.some.inj ((current_some hcurrent).2.symm.trans (drop_eq_cons hleft).1)
  exact ⟨hcurrent, hwf⟩

/-- After a step that goes on the stream of answers has moved on by one. -/
theorem answerAt_advanced (s : State) (c : Context) (i : Instr) (r : ReadResponse) :
    (s.advanced c i r).answerAt = fun k => s.answerAt (k + 1) := by
  funext k
  simp [State.advanced, State.issued]

/-- R16, R50, R197: an operation in flight performs the run of what is left of its program. -/
theorem performs_programRun (is : List Instr) {s : State} {c : Context} {i : Instr} (hfree : s.Free)
    (hc : s.inFlight = some c) (hcwf : c.wf = true) (hleft : (Job.program c.job).drop c.index = i :: is) :
    Performs s s.requests (programRun (Job.finish c.job) (i :: is) c.captured s.answerAt) := by
  induction is generalizing s c i with
  | nil =>
    obtain ⟨hcurrent, hwf⟩ := current_of_drop_eq_cons hcwf hleft
    cases hanswer : s.answerAt 0 with
    | failure e => exact performs_of_failure hfree hc hcurrent hwf hanswer
    | hang => exact performs_of_hang hfree hc hcurrent hwf hanswer
    | success r =>
      obtain ⟨-, -, hlength⟩ := drop_eq_cons hleft
      have hlast : ¬ c.index + 1 < (Job.program c.job).length := by simp [hlength]
      obtain ⟨resp, hfinish⟩ := exists_finish_of_last hcurrent hlast r
      have hstep := (step_inFlight hfree hc).trans
        (runCurrent_of_success_last hfree.2 hcurrent hwf hanswer hlast hfinish)
      rw [respond_issued, hanswer] at hstep
      rw [programRun_success hanswer, programRun_nil, hfinish]
      refine ⟨fun resp' hresp => ?_, fun hnone => nomatch hnone⟩
      obtain rfl := Option.some.inj hresp
      exact runSteps_next 0 hstep
  | cons i' is ih =>
    obtain ⟨hcurrent, hwf⟩ := current_of_drop_eq_cons hcwf hleft
    cases hanswer : s.answerAt 0 with
    | failure e => exact performs_of_failure hfree hc hcurrent hwf hanswer
    | hang => exact performs_of_hang hfree hc hcurrent hwf hanswer
    | success r =>
      obtain ⟨-, hnext, hlength⟩ := drop_eq_cons hleft
      have hmore : c.index + 1 < (Job.program c.job).length := by simp [hlength]
      have hstep := (step_inFlight hfree hc).trans (runCurrent_of_success_more hfree.2 hcurrent hwf hanswer hmore)
      have hrest := ih (s := s.advanced c i r) ⟨hfree.1, rfl⟩ rfl (Context.next_wf hcwf hcurrent hmore r) hnext
      rw [answerAt_advanced] at hrest
      rw [programRun_success hanswer]
      exact performs_advanced hstep hanswer hrest

/-- A run of at least one step depends on its start through the first step alone, for any machine. -/
theorem hostRun_congr {M : Host.Core} {s s' : M.State} (h : M.step s = M.step s') (n : Nat) :
    M.run (n + 1) s = M.run (n + 1) s' := by
  rw [Host.Core.run, Host.Core.run, h]

/-- R165: what the accepted job performs, the idle block with its request next performs. -/
theorem performs_of_started {s : State} {rest : List Request} {j : Job} {run : Run} (hpos : 1 ≤ run.events.length)
    (hstep : step s = step (s.started rest j)) (h : Performs (s.started rest j) rest run) : Performs s rest run := by
  have hruns : runSteps run.events.length s = runSteps run.events.length (s.started rest j) := by
    obtain ⟨n, hn⟩ := Nat.exists_eq_add_of_le' hpos
    rw [hn]
    exact hostRun_congr (M := Sys2Proof.core) hstep n
  rw [Performs, hruns]
  exact h

/-- A job whose payload fits has an instruction. -/
theorem exists_program_eq_cons {j : Job} (hok : Job.payloadOk j = true) : ∃ i is, Job.program j = i :: is := by
  obtain ⟨i, hcurrent, -⟩ := current_of_wf (start_wf hok)
  exact List.exists_cons_of_ne_nil fun hnil => by simpa [Context.start, hnil] using (current_some hcurrent).2

/-- R165: a request that is accepted performs the run of its job's program. -/
theorem performs_of_ready {s : State} {r : Request} {rest : List Request} {j : Job} (hready : s.Ready r rest)
    (hjob : Request.job r = some j) (hok : Job.payloadOk j = true) :
    Performs s rest (programRun (Job.finish j) (Job.program j) [] s.answerAt) := by
  obtain ⟨hfree, hstep⟩ := step_started hready hjob hok
  obtain ⟨i, is, hprogram⟩ := exists_program_eq_cons hok
  rw [hprogram]
  exact performs_of_started length_programRun_events_pos hstep
    (performs_programRun is (c := Context.start j) hfree rfl (start_wf hok) hprogram)

/-- The run of an operation's program fits into 4 steps. -/
theorem length_program_le (j : Job) : (Job.program j).length ≤ 4 := by
  cases j with
  | wire i => exact (by decide : 1 ≤ 4)
  | operation o =>
    cases o with
    | writeRegister | readRegister | act | getStatus => exact (by decide : 1 ≤ 4)
    | getCount => exact (by decide : 2 ≤ 4)
    | initializeDefaults => exact Nat.le_refl 4

/-- A performed run with a response, its events and their number written out. -/
theorem Performs.answered {s : State} {rest : List Request} {run : Run} (h : Performs s rest run) {events : List Event}
    {resp : Response} {n : Nat} (hrun : run = ⟨events, some resp⟩) (hn : events.length = n) :
    runSteps n s = .next (s.answered rest events resp) := by
  subst hrun hn
  exact h.1 resp rfl

/-- R8: an operation in flight whose next invocations return is answered within the steps it has left. -/
theorem Performs.ends {s : State} {rest : List Request} {finish : List Byte → Option Response} {is : List Instr}
    {captured : List Byte} (h : Performs s rest (programRun finish is captured s.answerAt)) (hne : is ≠ [])
    (hresp : ∃ resp, (programRun finish is captured s.answerAt).response = some resp) :
    ∃ n t resp, 1 ≤ n ∧ n ≤ is.length ∧ runSteps n s = .next t ∧
      t.responses = s.responses ++ [resp] ∧ t.requests = rest ∧ t.inFlight = none ∧ t.link = .quiet := by
  obtain ⟨i, is, rfl⟩ := List.exists_cons_of_ne_nil hne
  obtain ⟨resp, hresp⟩ := hresp
  exact ⟨_, _, resp, length_programRun_events_pos, length_programRun_events_le _ _ _, h.1 resp hresp, rfl, rfl, rfl, rfl⟩

/-- R8: a context in order whose next four invocations return has a response. -/
theorem exists_response_of_returns {s : State} {c : Context} (hcwf : c.wf = true) (h : s.TransportReturns 4) :
    (Job.program c.job).drop c.index ≠ [] ∧
      ∃ resp, (programRun (Job.finish c.job) ((Job.program c.job).drop c.index) c.captured s.answerAt).response =
        some resp := by
  obtain ⟨i, hcurrent, -⟩ := current_of_wf hcwf
  obtain ⟨hcaptured, hindex⟩ := current_some hcurrent
  constructor
  · intro hnil
    simp [List.drop_eq_nil_iff.mp hnil] at hindex
  · refine exists_programRun_response (fun bytes => finish_some) _ _ _ ?_ fun k hk => h k ?_
    · rw [hcaptured, ← List.sum_append, ← List.map_append, List.take_append_drop]
    · have := length_program_le c.job
      rw [List.length_drop] at hk
      omega

/-- Settles O56: what is in flight, and what an accepted request starts, performs a run that ends; the rest is turned away. -/
theorem everyOperationEndsIfTransportReturns : Obligations.EveryOperationEndsIfTransportReturns := by
  intro s hinv hfree hreturns
  constructor
  · intro r rest hidle hrequests hne
    have hready : s.Ready r rest := ⟨hfree, hidle, hrequests⟩
    obtain ⟨j, hjob, hok, -⟩ | haccept | ⟨rfl, -⟩ := accept_cases hrequests
    · obtain ⟨hleft, hresp⟩ := exists_response_of_returns (c := Context.start j) (start_wf hok) hreturns
      obtain ⟨n, t, resp, hpos, hle, hends⟩ := (performs_of_ready hready hjob hok).ends hleft hresp
      exact ⟨n, t, resp, hpos, hle.trans (length_program_le j), hends⟩
    · exact ⟨1, _, _, Nat.le_refl 1, by decide, runSteps_next 0 ((step_ready hready).trans haccept), rfl, rfl, rfl, rfl⟩
    · exact absurd rfl hne
  · intro c hc
    have hcwf := hinv.context_ok c hc
    obtain ⟨hleft, hresp⟩ := exists_response_of_returns hcwf hreturns
    obtain ⟨i, is, hprogram⟩ := List.exists_cons_of_ne_nil hleft
    have hperforms := performs_programRun is hfree hc hcwf hprogram
    rw [← hprogram] at hperforms
    rw [← List.length_drop]
    exact hperforms.ends hleft hresp

end Sys2Proof.Machine
end

section
/-! PROOFS. The pseudocode of Machine/Reference.lean as a run of its operation's program (R153 to R161), so the machine performs it,
and the two operations of more than one step (R160 to R162). -/

namespace Sys2Proof.Machine

open Sys2Proof

section Reference

variable (ans : Nat → Answer) (k : Nat) (buf : List Byte)

theorem busWrite_eq_busStep (cont : Nat → Run) :
    Reference.busWrite ans k buf cont = busStep ⟨.writeBytes, buf⟩ (ans k) fun _ => cont (k + 1) := by
  unfold Reference.busWrite busStep
  cases ans k <;> rfl

theorem busTransfer_eq_busStep (cont : Nat → ReadResponse → Run) :
    Reference.busTransfer ans k buf cont = busStep ⟨.transferBytes, buf⟩ (ans k) (cont (k + 1)) := by
  unfold Reference.busTransfer busStep
  cases ans k <;> rfl

/-- R116, R160: the count of the 4 Cntr bytes and the sign of the status byte, the byte weights written out. -/
theorem countResponse_eq (m : ReadResponse) (b : Byte) :
    countResponse [m.d1, m.d2, m.d3, m.d4] b =
      some (.ok (.count (Reference.signedCount m (StatusSnapshot.ofByte b).sign))) := by
  have hvalue : foldBigEndian 0 [m.d1, m.d2, m.d3, m.d4] =
      m.d1.toNat * 2 ^ 24 + m.d2.toNat * 2 ^ 16 + m.d3.toNat * 2 ^ 8 + m.d4.toNat := by
    simp only [foldBigEndian_cons, foldBigEndian_nil]
    omega
  rw [countResponse, Str.decode_eq_ok]
  dsimp only
  rw [reconstruct_of_length_le _ (by simp), hvalue, Reference.signedCount, signedMagnitude]
  simp

/-- R159: the response of the one Read of Str. -/
theorem finish_getStatus (r : ReadResponse) :
    Job.finish (.operation .getStatus) ([] ++ replyData Instr.readStr.action r) =
      some (.ok (.status (StatusSnapshot.ofByte r.d4))) := by
  change some (statusResponse r.d4) = _
  rw [statusResponse, Str.decode_eq_ok]

/-- R160: the response of the Read of Cntr and the Read of Str. -/
theorem finish_getCount (m r : ReadResponse) :
    Job.finish (.operation .getCount) ([] ++ replyData Instr.readCntr.action m ++ replyData Instr.readStr.action r) =
      some (.ok (.count (Reference.signedCount m (StatusSnapshot.ofByte r.d4).sign))) :=
  countResponse_eq m r.d4

/-- R153 to R161: an operation whose payload fits runs as its program does. -/
theorem reference_run_eq (o : Operation) (hok : Operation.payloadOk o = true) :
    Reference.run o ans = programRun (Job.finish (.operation o)) (Operation.program o) [] ans := by
  cases o with
  | writeRegister t data =>
    have hlen : ¬ data.length > 4 := Nat.not_lt.mpr (of_decide_eq_true hok)
    rw [Reference.run, Reference.writeRegister, if_neg hlen, busWrite_eq_busStep, Operation.program, programRun,
      invocationOf_ofHeader]
    rfl
  | readRegister t =>
    rw [Reference.run, Reference.readRegister, busTransfer_eq_busStep, Operation.program, programRun,
      invocationOf_ofHeader, ofHeader_action]
    rfl
  | act h data =>
    obtain ⟨t, a⟩ := h
    rw [Operation.program, programRun, invocationOf_ofHeader, ofHeader_action]
    cases a with
    | clear | load =>
      obtain rfl : data = [] := List.isEmpty_iff.mp hok
      simp only [Reference.run, Reference.act, List.length_nil, ne_eq, not_true_eq_false, if_false, busWrite_eq_busStep]
      rfl
    | read =>
      simp only [Reference.run, Reference.act, busTransfer_eq_busStep]
      rfl
    | write =>
      have hlen : ¬ data.length > 4 := Nat.not_lt.mpr (of_decide_eq_true hok)
      simp only [Reference.run, Reference.act, if_neg hlen, busWrite_eq_busStep]
      rfl
  | getStatus =>
    simp only [Reference.run, Reference.getStatus, Reference.readRegister, busTransfer_eq_busStep, Str.decode_eq_ok,
      Operation.program, programRun, finish_getStatus]
    rfl
  | getCount =>
    simp only [Reference.run, Reference.getCount, Reference.getStatus, Reference.readRegister, busTransfer_eq_busStep,
      Str.decode_eq_ok, Operation.program, programRun, finish_getCount]
    rfl
  | initializeDefaults =>
    simp only [Reference.run, Reference.initializeDefaults, Reference.writeRegister, Reference.act, busWrite_eq_busStep]
    rfl

/-- R153, R155, R156: an operation whose payload does not fit ends before its first invocation. -/
theorem reference_run_of_not_payloadOk (o : Operation) (hbig : Operation.payloadOk o = false) :
    Reference.run o ans = ⟨[], some (.err .payloadTooBig)⟩ := by
  cases o with
  | writeRegister t data =>
    have hlen : data.length > 4 := Nat.not_le.mp (of_decide_eq_false hbig)
    exact if_pos hlen
  | act h data =>
    obtain ⟨t, a⟩ := h
    cases a with
    | clear | load =>
      have hlen : data.length ≠ 0 := by simpa [Operation.payloadOk, payloadFits] using hbig
      exact if_pos hlen
    | read => cases hbig
    | write =>
      have hlen : data.length > 4 := Nat.not_le.mp (of_decide_eq_false hbig)
      exact if_pos hlen
  | readRegister | getStatus | getCount | initializeDefaults => cases hbig

end Reference

/-- Settles O45: an operation whose payload fits performs its program's run, which is the pseudocode's; the others are turned away
as the pseudocode ends them. -/
theorem stepsRefinePseudocode : Obligations.StepsRefinePseudocode := by
  intro s o rest hready
  cases hok : Operation.payloadOk o with
  | false =>
    rw [reference_run_of_not_payloadOk _ o hok]
    refine ⟨fun r hr => ?_, fun hnone => nomatch hnone⟩
    obtain rfl := Option.some.inj hr
    exact ⟨1, Nat.le_refl 1, by decide, runSteps_next 0 (step_of_payloadTooBig hready hok)⟩
  | true =>
    obtain ⟨i, is, hprogram⟩ := exists_program_eq_cons (j := .operation o) hok
    obtain ⟨hends, hwaits⟩ := performs_of_ready (j := .operation o) hready rfl hok
    have hle := (length_programRun_events_le (finish := Job.finish (.operation o)) (Job.program (.operation o)) []
      s.answerAt).trans (length_program_le _)
    have hpos : 1 ≤ (programRun (Job.finish (.operation o)) (Job.program (.operation o)) [] s.answerAt).events.length := by
      rw [hprogram]; exact length_programRun_events_pos
    rw [reference_run_eq _ o hok]
    refine ⟨fun r hr => ⟨_, hpos, hle, hends r hr⟩, fun hnone => ?_⟩
    obtain ⟨t, hrun, hwaiting⟩ := hwaits hnone
    exact ⟨_, t, hpos, hle, hrun, hwaiting⟩

/-- R160: the sign and magnitude of a count, as an exact integer (decisions D1, D9). -/
theorem toInt_signedCount (m : ReadResponse) (b : Byte) :
    (Reference.signedCount m (StatusSnapshot.ofByte b).sign).toInt = (if b.getLsbD 0 then -1 else 1) *
      ((m.d1.toNat * 2 ^ 24 + m.d2.toNat * 2 ^ 16 + m.d3.toNat * 2 ^ 8 + m.d4.toNat : Nat) : Int) := by
  have h1 := m.d1.isLt
  have h2 := m.d2.isLt
  have h3 := m.d3.isLt
  have h4 := m.d4.isLt
  have hbound : m.d1.toNat * 2 ^ 24 + m.d2.toNat * 2 ^ 16 + m.d3.toNat * 2 ^ 8 + m.d4.toNat < 2 ^ 32 := by omega
  have hvalue := toInt_ofInt_signedMagnitude (StatusSnapshot.ofByte b).sign hbound
  rw [signedMagnitude] at hvalue
  cases hb : b.getLsbD 0 <;> simp_all [Reference.signedCount, StatusSnapshot.ofByte]

/-- Settles O43: the run of the two reads under each pair of answers. -/
theorem getCountOperation : Obligations.GetCountOperation := by
  intro s rest hready
  have hperforms := performs_of_ready hready rfl rfl
  refine ⟨fun e he => step_of_failure hready rfl rfl rfl he, fun m e hm he => ?_, fun m r hm hr => ?_⟩
  · refine hperforms.answered ?_ rfl
    rw [Job.program, Operation.program, programRun_success hm, programRun_failure he]
    rfl
  · refine ⟨_, toInt_signedCount m r.d4, hperforms.answered ?_ rfl⟩
    rw [Job.program, Operation.program, programRun_success hm, programRun_success hr, programRun_nil, finish_getCount]
    rfl

/-- Settles O44: the program is four writes, so its run is theirs up to the first failure. -/
theorem initializeDefaultsOperation : Obligations.InitializeDefaultsOperation := by
  intro s rest hready frames hframes
  have hperforms := performs_of_ready hready rfl rfl
  have hwrites : List.Forall₂ Writes (Operation.program .initializeDefaults) frames := by
    rw [hframes]
    exact .cons rfl (.cons rfl (.cons rfl (.cons rfl .nil)))
  have hlength : frames.length = 4 := by rw [hframes]; rfl
  constructor
  · intro hall
    exact hperforms.answered (programRun_of_writes hwrites (hlength ▸ hall)) (by simp [hlength])
  · intro k hk e hsuccess hfailure
    refine hperforms.answered (programRun_of_writes_failure hwrites (hlength ▸ hk) hsuccess hfailure) ?_
    simp [hlength, Nat.min_eq_left hk.le]

end Sys2Proof.Machine
end
